-- ==== Sys2Proof/Word.lean ====
section
/-! DEFINITION. The widths of the block: spec/00_scope.md rule R9 fixes every one of them. -/

namespace Sys2Proof

/-- A raw instruction word, a shift value, a shift amount or a shift result: 32 bits (R9). -/
abbrev Word := BitVec 32

/-- A register index, 0 to 15 (R9, R21). No index is special to the block (R22). -/
abbrev RegIndex := BitVec 4

end Sys2Proof
end

