-- ==== Sys2Proof/Syntax.lean ====
section
/-! DEFINITION. The closed data types of the block (spec/10_state.md rule R25) and the instruction
type, one constructor per row of spec/opcode_table.json. -/

namespace Sys2Proof

/-- The sixteen ALU mnemonics, in the order that numbers them 0x0 to 0xF (R25, R101). -/
inductive Mnemonic where
  | and | eor | sub | rsb | add | adc | sbc | rsc
  | tst | teq | cmp | cmn | orr | mov | bic | mvn
  deriving DecidableEq, Repr

/-- The two families (R25, R102). -/
inductive Family where
  | logical | arithmetic
  deriving DecidableEq, Repr

/-- The four shift kinds (R25), LSL, LSR, ASR and ROR in that order. With four constructors the
"shift kind out of range" violation of R171 cannot be written down. -/
inductive ShiftKind where
  | logicalLeft | logicalRight | arithmeticRight | rotateRight
  deriving DecidableEq, Repr

/-- The source of a shift amount (R25): a raw 5-bit constant or the index of a register. -/
inductive ShiftOperator where
  | immediate (n : BitVec 5)
  | register (rs : RegIndex)
  deriving DecidableEq, Repr

/-- The second-operand descriptor (R25). `Op2.wf` (WellFormed.lean) states the invariant of `shift`. -/
inductive Op2 where
  | register (operator : ShiftOperator) (kind : ShiftKind) (rm : RegIndex)
  | immediate (base : BitVec 8) (shift : BitVec 5)
  deriving DecidableEq, Repr

/-- What the PSR-Transfer Decoder recognises (R25, R150). -/
inductive PsrOperationKind where
  | mrs (destination : RegIndex)
  | msr (source : RegIndex)
  | msrFlg (operand : Op2)
  deriving DecidableEq, Repr

/-- The PSR selector: a type the block represents and never derives (R28). -/
inductive PsrSelector where
  | cpsr | spsr
  deriving DecidableEq, Repr, Inhabited

/-- The record of one Shift Engine evaluation, five fields on five outputs (R25, R27). -/
structure ShiftResult where
  result : Word
  carryOut : Bool
  overflow : Bool
  sign : Bool
  zero : Bool
  deriving DecidableEq, Repr

/-- The answer of the top-level decode flow `DecodeWord` (spec/30_encoding.md rule R53). -/
inductive Decoded where
  | psrTransfer (k : PsrOperationKind)
  | alu (mnemonic : Mnemonic) (family : Family) (op2 : Op2)
  deriving DecidableEq, Repr

/-- Which contract of the block the caller evaluates in the next step (R2, R11, R193). The first is
the flow of R53; the next four are the four components, each on its own ports. The last two are the
in-process calls of R11 with a number as argument in place of the 4-bit or 2-bit port: the only calls
with which a caller can write down a value outside the domain (R171; log entry 12). -/
inductive Call where
  | decodeWord | tryDecodePsr | classify | decodeOp2 | shift
  | classifyInt (opcode : Nat)
  | shiftInt (kind : Nat)
  deriving DecidableEq, Repr

/-- One constructor per row of spec/opcode_table.json. The fields are the operands the block reads;
a bit that no component reads (R51, R52) is no operand. -/
inductive Instr where
  -- The three PSR-transfer shapes (R151, R152, R153).
  | mrs (rd : RegIndex)
  | msr (rm : RegIndex)
  | msrFlg (operand : Op2)
  -- The sixteen ALU words (R104 to R119), each with its second operand (R53).
  | and (op2 : Op2)
  | eor (op2 : Op2)
  | sub (op2 : Op2)
  | rsb (op2 : Op2)
  | add (op2 : Op2)
  | adc (op2 : Op2)
  | sbc (op2 : Op2)
  | rsc (op2 : Op2)
  | tst (op2 : Op2)
  | teq (op2 : Op2)
  | cmp (op2 : Op2)
  | cmn (op2 : Op2)
  | orr (op2 : Op2)
  | mov (op2 : Op2)
  | bic (op2 : Op2)
  | mvn (op2 : Op2)
  -- The ten operand forms of the Second-Operand Decoder (R141).
  | opImm (rotateCount : BitVec 4) (base : BitVec 8)
  | lslImm (n : BitVec 5) (rm : RegIndex)
  | lsrImm (n : BitVec 5) (rm : RegIndex)
  | asrImm (n : BitVec 5) (rm : RegIndex)
  | rorImm (n : BitVec 5) (rm : RegIndex)
  | rrx (rm : RegIndex)
  | lslReg (rs rm : RegIndex)
  | lsrReg (rs rm : RegIndex)
  | asrReg (rs rm : RegIndex)
  | rorReg (rs rm : RegIndex)
  -- The four codes of the Shift Engine's kind port (R58, R80); amount, value and carry are on its
  -- other ports.
  | lsl
  | lsr
  | asr
  | ror
  deriving DecidableEq, Repr

end Sys2Proof
end

