-- ==== Sys2Proof/Config.lean ====
section
/-! DEFINITION. The three parameters the spec leaves OPEN (spec/00_scope.md rule R10) and the two texts it
asks for and does not give (spec/30_encoding.md rule R66): constants without a body, so no proof can see
a value of theirs; and the record through which the resolution contract of R138 takes the two it needs. -/

namespace Sys2Proof

/-- How the caller turns the runtime value of the shift-amount register into an amount (R10, D7 OPEN). -/
opaque Config.amountOfReg : Word → Word

/-- Whether a register-supplied amount of zero skips the Shift Engine (R10, D8 OPEN). -/
opaque Config.regZeroBypass : Bool

/-- How the caller obtains the PSR selector from the word (R10, R28, D6 OPEN). It reaches text only. -/
opaque Config.psrSelOf : Word → PsrSelector

/-- The text of a Family: R66 asks for one and the spec gives none (N10, N20; log entry 16). -/
opaque Config.familyText : Family → String

/-- The text of a ShiftOperator that stands alone: R66 asks for one and the spec gives none (N10; log
entry 16). -/
opaque Config.shiftOperatorText : ShiftOperator → String

/-- The two parameters of `ResolveOp2` as arguments (R10, R138). -/
structure ResolveParams where
  amountOfReg : Word → Word
  regZeroBypass : Bool

/-- The parameters of this machine: the open constants. -/
def ResolveParams.config : ResolveParams := ⟨Config.amountOfReg, Config.regZeroBypass⟩

/-- The document-literal values (R10): the whole register is the amount, and nothing is bypassed. -/
def ResolveParams.literal : ResolveParams := ⟨fun r => r, false⟩

/-- The values the spec names for a caller that wants ARM7TDMI behaviour (R138, G5; not adopted):
the low byte is the amount, and zero bypasses the engine. -/
def ResolveParams.armLike : ResolveParams := ⟨fun r => (r.extractLsb' 0 8).setWidth 32, true⟩

end Sys2Proof
end

