-- ==== Sys2Proof/WellFormed.lean ====
section
/-! DEFINITION. The checks on descriptors and instructions. The widths of R29 are carried by the
types; what is left is the evenness of an immediate's rotation (R26) and the one constant that the
ROR_IMM row does not have (R141). -/

namespace Sys2Proof

/-- R26 (a): "is always a multiple of 2". The bound 30 then follows from the 5-bit width. -/
def Op2.wf : Op2 → Bool
  | .register _ _ _ => true
  | .immediate _ shift => !shift.getLsbD 0

/-- A PSR operation is well formed when its operand is. -/
def PsrOperationKind.wf : PsrOperationKind → Bool
  | .mrs _ => true
  | .msr _ => true
  | .msrFlg operand => operand.wf

/-- A decode answer is well formed when the descriptor in it is. -/
def Decoded.wf : Decoded → Bool
  | .psrTransfer k => k.wf
  | .alu _ _ op2 => op2.wf

/-- The check on instructions: descriptors are well formed, and a ROR_IMM constant is 1 to 31, since
a constant of 0 is the RRX row (R141). -/
def Instr.wf : Instr → Bool
  | .mrs _ => true
  | .msr _ => true
  | .msrFlg operand => operand.wf
  | .and op2 => op2.wf
  | .eor op2 => op2.wf
  | .sub op2 => op2.wf
  | .rsb op2 => op2.wf
  | .add op2 => op2.wf
  | .adc op2 => op2.wf
  | .sbc op2 => op2.wf
  | .rsc op2 => op2.wf
  | .tst op2 => op2.wf
  | .teq op2 => op2.wf
  | .cmp op2 => op2.wf
  | .cmn op2 => op2.wf
  | .orr op2 => op2.wf
  | .mov op2 => op2.wf
  | .bic op2 => op2.wf
  | .mvn op2 => op2.wf
  | .opImm _ _ => true
  | .lslImm _ _ => true
  | .lsrImm _ _ => true
  | .asrImm _ _ => true
  | .rorImm n _ => n != 0#5
  | .rrx _ => true
  | .lslReg _ _ => true
  | .lsrReg _ _ => true
  | .asrReg _ _ => true
  | .rorReg _ _ => true
  | .lsl => true
  | .lsr => true
  | .asr => true
  | .ror => true

end Sys2Proof
end

