-- ==== Sys2Proof/Decode.lean ====
section
/-! DEFINITION. The decoders of the block, total on every word (spec/30_encoding.md,
spec/42_second_operand.md, spec/43_psr_transfer.md, spec/41_opcode_classifier.md), and after them the
encoder, written from the format tables of R51. The field `word[hi:lo]` of R12 is
`w.extractLsb' lo (hi - lo + 1)`. -/

namespace Sys2Proof

/-! ## The Opcode Classifier (spec/41_opcode_classifier.md) -/

/-- The binary column of R101's table, bit 3 first: one row per opcode, none by default. -/
def classify (opcode : BitVec 4) : Mnemonic :=
  match opcode.getLsbD 3, opcode.getLsbD 2, opcode.getLsbD 1, opcode.getLsbD 0 with
  | false, false, false, false => .and
  | false, false, false, true => .eor
  | false, false, true, false => .sub
  | false, false, true, true => .rsb
  | false, true, false, false => .add
  | false, true, false, true => .adc
  | false, true, true, false => .sbc
  | false, true, true, true => .rsc
  | true, false, false, false => .tst
  | true, false, false, true => .teq
  | true, false, true, false => .cmp
  | true, false, true, true => .cmn
  | true, true, false, false => .orr
  | true, true, false, true => .mov
  | true, true, true, false => .bic
  | true, true, true, true => .mvn

/-- R102: "{AND,EOR,TST,TEQ,ORR,MOV,BIC,MVN} → Logical", the other eight Arithmetic. -/
def familyOf : Mnemonic → Family
  | .and | .eor | .tst | .teq | .orr | .mov | .bic | .mvn => .logical
  | .sub | .rsb | .add | .adc | .sbc | .rsc | .cmp | .cmn => .arithmetic

/-- `OpcodeOfMnemonic` (R101), the table read right to left; also the port code of a mnemonic (R11, D5). -/
def Mnemonic.opcode : Mnemonic → BitVec 4
  | .and => 0x0#4
  | .eor => 0x1#4
  | .sub => 0x2#4
  | .rsb => 0x3#4
  | .add => 0x4#4
  | .adc => 0x5#4
  | .sbc => 0x6#4
  | .rsc => 0x7#4
  | .tst => 0x8#4
  | .teq => 0x9#4
  | .cmp => 0xA#4
  | .cmn => 0xB#4
  | .orr => 0xC#4
  | .mov => 0xD#4
  | .bic => 0xE#4
  | .mvn => 0xF#4

/-- `OpcodeOf(word)` = `word[24:21]` (R59; the position is the spec's decision D4). -/
def opcodeOf (w : Word) : BitVec 4 := w.extractLsb' 21 4

/-! ## The Second-Operand Decoder (spec/42_second_operand.md) -/

/-- `KindOf` (R133, R58; the four codes are the spec's decision D3). -/
def kindOf (code : BitVec 2) : ShiftKind :=
  match code.getLsbD 1, code.getLsbD 0 with
  | false, false => .logicalLeft
  | false, true => .logicalRight
  | true, false => .arithmeticRight
  | true, true => .rotateRight

/-- The port code of a shift kind, also the field `word[6:5]` (R58). -/
def ShiftKind.code : ShiftKind → BitVec 2
  | .logicalLeft => 0b00#2
  | .logicalRight => 0b01#2
  | .arithmeticRight => 0b10#2
  | .rotateRight => 0b11#2

/-- The `shift` of an immediate descriptor: the 4-bit rotate count times two, in 5 bits (R55, R131). -/
def doubled (rotateCount : BitVec 4) : BitVec 5 := rotateCount.setWidth 5 <<< 1

/-- The immediate-rotate form (R131). -/
def decodeOp2Imm (w : Word) : Op2 := .immediate (w.extractLsb' 0 8) (doubled (w.extractLsb' 8 4))

/-- Shift by immediate (R134): the 5-bit constant is kept raw. -/
def decodeOp2RegImm (w : Word) : Op2 :=
  .register (.immediate (w.extractLsb' 7 5)) (kindOf (w.extractLsb' 5 2)) (w.extractLsb' 0 4)

/-- Shift by register (R135): `word[7]` is not read. -/
def decodeOp2RegReg (w : Word) : Op2 :=
  .register (.register (w.extractLsb' 8 4)) (kindOf (w.extractLsb' 5 2)) (w.extractLsb' 0 4)

/-- The Second-Operand Decoder (R130): bit 25 is the immediate flag, bit 4 selects the submode. -/
def decodeOp2 (w : Word) : Op2 :=
  if w.getLsbD 25 then decodeOp2Imm w
  else if w.getLsbD 4 then decodeOp2RegReg w
  else decodeOp2RegImm w

/-! ## The PSR-Transfer Decoder (spec/43_psr_transfer.md) -/

/-- A pattern of R60: a word matches when `(w & mask) = value`. -/
structure Pattern where
  mask : Word
  value : Word
  deriving DecidableEq, Repr

/-- R60: a word matches a pattern when its masked bits are the match value. -/
def Pattern.accepts (p : Pattern) (w : Word) : Bool := decide (w &&& p.mask = p.value)

/-- The Mrs row of R60. -/
def mrsPattern : Pattern := ⟨0x0FBF0FFF#32, 0x010F0000#32⟩

/-- The Msr row of R60. -/
def msrPattern : Pattern := ⟨0x0FBFFFF0#32, 0x0129F000#32⟩

/-- The MsrFlg row of R60. -/
def msrFlgPattern : Pattern := ⟨0x0DBFF000#32, 0x0128F000#32⟩

/-- `TryDecodePsr` (R150): the three patterns in the stated priority order; `none` is "not a PSR
transfer" (R156). -/
def tryDecodePsr (w : Word) : Option PsrOperationKind :=
  if mrsPattern.accepts w then some (.mrs (w.extractLsb' 12 4))
  else if msrPattern.accepts w then some (.msr (w.extractLsb' 0 4))
  else if msrFlgPattern.accepts w then some (.msrFlg (decodeOp2 w))
  else none

/-! ## From words to instructions -/

/-- The instruction row of a PSR shape. -/
def psrInstr : PsrOperationKind → Instr
  | .mrs destination => .mrs destination
  | .msr source => .msr source
  | .msrFlg operand => .msrFlg operand

/-- The instruction row of a mnemonic, with its second operand. -/
def aluInstr : Mnemonic → Op2 → Instr
  | .and, op2 => .and op2
  | .eor, op2 => .eor op2
  | .sub, op2 => .sub op2
  | .rsb, op2 => .rsb op2
  | .add, op2 => .add op2
  | .adc, op2 => .adc op2
  | .sbc, op2 => .sbc op2
  | .rsc, op2 => .rsc op2
  | .tst, op2 => .tst op2
  | .teq, op2 => .teq op2
  | .cmp, op2 => .cmp op2
  | .cmn, op2 => .cmn op2
  | .orr, op2 => .orr op2
  | .mov, op2 => .mov op2
  | .bic, op2 => .bic op2
  | .mvn, op2 => .mvn op2

/-- The instruction at the top of the flow of R53: a PSR shape first, otherwise an ALU word. -/
def decodeWord (w : Word) : Instr :=
  match tryDecodePsr w with
  | some k => psrInstr k
  | none => aluInstr (classify (opcodeOf w)) (decodeOp2 w)

/-- The shift-by-immediate row of a kind and a constant (R141): ROR with constant 0 is the RRX row. -/
def shiftImmInstr (kind : ShiftKind) (n : BitVec 5) (rm : RegIndex) : Instr :=
  match kind with
  | .logicalLeft => .lslImm n rm
  | .logicalRight => .lsrImm n rm
  | .arithmeticRight => .asrImm n rm
  | .rotateRight => if n = 0#5 then .rrx rm else .rorImm n rm

/-- The shift-by-register row of a kind (R141). -/
def shiftRegInstr (kind : ShiftKind) (rs rm : RegIndex) : Instr :=
  match kind with
  | .logicalLeft => .lslReg rs rm
  | .logicalRight => .lsrReg rs rm
  | .arithmeticRight => .asrReg rs rm
  | .rotateRight => .rorReg rs rm

/-- The operand-form row of a word, by the table of R141. -/
def decodeOperandForm (w : Word) : Instr :=
  if w.getLsbD 25 then .opImm (w.extractLsb' 8 4) (w.extractLsb' 0 8)
  else if w.getLsbD 4 then
    shiftRegInstr (kindOf (w.extractLsb' 5 2)) (w.extractLsb' 8 4) (w.extractLsb' 0 4)
  else shiftImmInstr (kindOf (w.extractLsb' 5 2)) (w.extractLsb' 7 5) (w.extractLsb' 0 4)

/-- The row of a code on the Shift Engine's 2-bit kind port (R58). -/
def decodeKind (code : BitVec 2) : Instr :=
  match kindOf code with
  | .logicalLeft => .lsl
  | .logicalRight => .lsr
  | .arithmeticRight => .asr
  | .rotateRight => .ror

/-- Why bits are no instruction. No 32-bit word and no 2-bit kind code is rejected (R63, R171). -/
inductive DecodeError where
  /-- A kind code above 3: the violation of R171, seen only by a caller with more than two bits. -/
  | shiftKindOutOfRange
  /-- The classifier and the PSR decoder evaluated alone answer a port value, not a table row, and so do
  the two calls with a number as argument. -/
  | noRowOfItsOwn
  deriving DecidableEq, Repr

/-- The decoder a call uses, on any 32 bits: total, and rejecting by name. -/
def decodeAt (c : Call) (bits : Word) : Except DecodeError Instr :=
  match c with
  | .decodeWord => .ok (decodeWord bits)
  | .decodeOp2 => .ok (decodeOperandForm bits)
  | .shift => if bits.toNat < 4 then .ok (decodeKind (bits.extractLsb' 0 2)) else .error .shiftKindOutOfRange
  | .tryDecodePsr => .error .noRowOfItsOwn
  | .classify => .error .noRowOfItsOwn
  | .classifyInt _ => .error .noRowOfItsOwn
  | .shiftInt _ => .error .noRowOfItsOwn

/-! ## The encoder

Every bit that no component reads (R51, R52, R63) is encoded as 0. -/

/-- A field of a format table, placed with its bit 0 at bit `lo` of the word (R12). -/
def place {n : Nat} (field : BitVec n) (lo : Nat) : Word := field.setWidth 32 <<< lo

/-- The bits of a second operand (R51, format OP2): bit 25 and bits 11:0, every other bit 0. -/
def encodeOp2 : Op2 → Word
  | .immediate base shift => place 1#1 25 ||| place (shift.extractLsb' 1 4) 8 ||| place base 0
  | .register (.immediate n) kind rm => place n 7 ||| place kind.code 5 ||| place rm 0
  | .register (.register rs) kind rm => place rs 8 ||| place kind.code 5 ||| place 1#1 4 ||| place rm 0

/-- Format DP (R51): the opcode at 24:21 (R59) and the second operand. -/
def encodeDp (m : Mnemonic) (d : Op2) : Word := place m.opcode 21 ||| encodeOp2 d

/-- Format MRS (R51). -/
def encodeMrs (rd : RegIndex) : Word := place 0b00010#5 23 ||| place 0b001111#6 16 ||| place rd 12

/-- Format MSR (R51). -/
def encodeMsr (rm : RegIndex) : Word := place 0b00010#5 23 ||| place 0b1010011111#10 12 ||| place rm 0

/-- Format MSRFLG (R51). -/
def encodeMsrFlg (d : Op2) : Word := place 0b10#2 23 ||| place 0b1010001111#10 12 ||| encodeOp2 d

/-- The call that evaluates an instruction. -/
def Instr.call : Instr → Call
  | .mrs _ | .msr _ | .msrFlg _ => .decodeWord
  | .and _ | .eor _ | .sub _ | .rsb _ | .add _ | .adc _ | .sbc _ | .rsc _ => .decodeWord
  | .tst _ | .teq _ | .cmp _ | .cmn _ | .orr _ | .mov _ | .bic _ | .mvn _ => .decodeWord
  | .opImm _ _ | .rrx _ => .decodeOp2
  | .lslImm _ _ | .lsrImm _ _ | .asrImm _ _ | .rorImm _ _ => .decodeOp2
  | .lslReg _ _ | .lsrReg _ _ | .asrReg _ _ | .rorReg _ _ => .decodeOp2
  | .lsl | .lsr | .asr | .ror => .shift

/-- The bits of an instruction on the port its call reads: a word, or the kind code in the low bits. -/
def encode : Instr → Word
  | .mrs rd => encodeMrs rd
  | .msr rm => encodeMsr rm
  | .msrFlg operand => encodeMsrFlg operand
  | .and op2 => encodeDp .and op2
  | .eor op2 => encodeDp .eor op2
  | .sub op2 => encodeDp .sub op2
  | .rsb op2 => encodeDp .rsb op2
  | .add op2 => encodeDp .add op2
  | .adc op2 => encodeDp .adc op2
  | .sbc op2 => encodeDp .sbc op2
  | .rsc op2 => encodeDp .rsc op2
  | .tst op2 => encodeDp .tst op2
  | .teq op2 => encodeDp .teq op2
  | .cmp op2 => encodeDp .cmp op2
  | .cmn op2 => encodeDp .cmn op2
  | .orr op2 => encodeDp .orr op2
  | .mov op2 => encodeDp .mov op2
  | .bic op2 => encodeDp .bic op2
  | .mvn op2 => encodeDp .mvn op2
  | .opImm rotateCount base => encodeOp2 (.immediate base (doubled rotateCount))
  | .lslImm n rm => encodeOp2 (.register (.immediate n) .logicalLeft rm)
  | .lsrImm n rm => encodeOp2 (.register (.immediate n) .logicalRight rm)
  | .asrImm n rm => encodeOp2 (.register (.immediate n) .arithmeticRight rm)
  | .rorImm n rm => encodeOp2 (.register (.immediate n) .rotateRight rm)
  | .rrx rm => encodeOp2 (.register (.immediate 0#5) .rotateRight rm)
  | .lslReg rs rm => encodeOp2 (.register (.register rs) .logicalLeft rm)
  | .lsrReg rs rm => encodeOp2 (.register (.register rs) .logicalRight rm)
  | .asrReg rs rm => encodeOp2 (.register (.register rs) .arithmeticRight rm)
  | .rorReg rs rm => encodeOp2 (.register (.register rs) .rotateRight rm)
  | .lsl => ShiftKind.logicalLeft.code.setWidth 32
  | .lsr => ShiftKind.logicalRight.code.setWidth 32
  | .asr => ShiftKind.arithmeticRight.code.setWidth 32
  | .ror => ShiftKind.rotateRight.code.setWidth 32

/-- The mask and match of an instruction's row in spec/opcode_table.json (for a kind-port row, its
2-bit `encoding`). -/
def Instr.row : Instr → Pattern
  | .mrs _ => mrsPattern
  | .msr _ => msrPattern
  | .msrFlg _ => msrFlgPattern
  | .and _ => ⟨0x01E00000#32, 0x00000000#32⟩
  | .eor _ => ⟨0x01E00000#32, 0x00200000#32⟩
  | .sub _ => ⟨0x01E00000#32, 0x00400000#32⟩
  | .rsb _ => ⟨0x01E00000#32, 0x00600000#32⟩
  | .add _ => ⟨0x01E00000#32, 0x00800000#32⟩
  | .adc _ => ⟨0x01E00000#32, 0x00A00000#32⟩
  | .sbc _ => ⟨0x01E00000#32, 0x00C00000#32⟩
  | .rsc _ => ⟨0x01E00000#32, 0x00E00000#32⟩
  | .tst _ => ⟨0x01E00000#32, 0x01000000#32⟩
  | .teq _ => ⟨0x01E00000#32, 0x01200000#32⟩
  | .cmp _ => ⟨0x01E00000#32, 0x01400000#32⟩
  | .cmn _ => ⟨0x01E00000#32, 0x01600000#32⟩
  | .orr _ => ⟨0x01E00000#32, 0x01800000#32⟩
  | .mov _ => ⟨0x01E00000#32, 0x01A00000#32⟩
  | .bic _ => ⟨0x01E00000#32, 0x01C00000#32⟩
  | .mvn _ => ⟨0x01E00000#32, 0x01E00000#32⟩
  | .opImm _ _ => ⟨0x02000000#32, 0x02000000#32⟩
  | .lslImm _ _ => ⟨0x02000070#32, 0x00000000#32⟩
  | .lsrImm _ _ => ⟨0x02000070#32, 0x00000020#32⟩
  | .asrImm _ _ => ⟨0x02000070#32, 0x00000040#32⟩
  | .rorImm _ _ => ⟨0x02000070#32, 0x00000060#32⟩
  | .rrx _ => ⟨0x02000FF0#32, 0x00000060#32⟩
  | .lslReg _ _ => ⟨0x02000070#32, 0x00000010#32⟩
  | .lsrReg _ _ => ⟨0x02000070#32, 0x00000030#32⟩
  | .asrReg _ _ => ⟨0x02000070#32, 0x00000050#32⟩
  | .rorReg _ _ => ⟨0x02000070#32, 0x00000070#32⟩
  | .lsl => ⟨0x00000003#32, 0x00000000#32⟩
  | .lsr => ⟨0x00000003#32, 0x00000001#32⟩
  | .asr => ⟨0x00000003#32, 0x00000002#32⟩
  | .ror => ⟨0x00000003#32, 0x00000003#32⟩

/-! ## A table row given as bits

DESIGN CHOICE (log entry 4). The table lists rows of three ports, and the words of its operand-form
rows are also ALU words, so bits alone do not say which component they are for. -/

/-- The bits of a word the Second-Operand Decoder reads: bit 25 and bits 11:0 (R130). -/
def operandMask : Word := 0x02000FFF#32

/-- The component the host interface hands a table row to, by its width and bits: eight bits or fewer
are a kind, a word with no bit outside the second operand is an operand form, and every other word takes
the flow of R53. A kind above 3 does not fit the 2-bit port and is never cut down to it (R171): it can
only be handed over as a number. -/
def tableCall (nbits : Nat) (w : Nat) : Call :=
  if nbits ≤ 8 then (if w < 4 then .shift else .shiftInt w)
  else if BitVec.ofNat 32 w &&& ~~~operandMask = 0#32 then .decodeOp2
  else .decodeWord

/-- The instruction the decoder of `tableCall` reads from a row's bits. -/
def decodeTableWord (nbits w : Nat) : Option Instr :=
  if nbits ≤ 32 ∧ w < 2 ^ 32 then (decodeAt (tableCall nbits w) (BitVec.ofNat 32 w)).toOption else none

end Sys2Proof
end

