-- ==== Sys2Proof/Machine/State.lean ====
section
/-! DEFINITION. The state of the machine. The block itself holds none (spec/10_state.md rule R20); what
stands here is what its boundary carries (spec/00_scope.md rule R11, R33): the present values of its
input ports, the three pieces of the caller's state that reach it, which evaluation the caller asks
for, and the outputs of the last evaluation. -/

namespace Sys2Proof.Machine

/-- A resolved second operand (R138). `carryOut` is `none` for an immediate operand: the block
produces no carry for it (R132, D9). -/
structure Operand where
  value : Word
  carryOut : Option Bool
  deriving DecidableEq, Repr

/-- The outputs of one evaluation, one constructor per contract: "Outputs that do not belong to the
selected form carry no meaning; a model should make them unrepresentable" (R11). -/
inductive Output where
  /-- `DecodeWord` (R53). -/
  | decoded (d : Decoded)
  /-- `TryDecodePsr` alone (R150); `none` is `psr_valid` = 0. -/
  | psr (k : Option PsrOperationKind)
  /-- The Opcode Classifier alone (R100). -/
  | classified (mnemonic : Mnemonic) (family : Family)
  /-- The Second-Operand Decoder (R130), with its descriptor resolved by the contract of R138. -/
  | operand (descriptor : Op2) (resolved : Operand)
  /-- The Shift Engine (R80). -/
  | shifted (r : ShiftResult)
  deriving DecidableEq, Repr

/-- The machine: eight input fields that only the caller writes, and one output field that a step
writes. -/
structure State where
  /-- The evaluation the caller asks for (R193). -/
  call : Call
  /-- Input port `word` (R11), read by both decoders. -/
  word : Word
  /-- Input port `opcode` (R11): four wires, so a value above 0xF cannot be presented (R103). -/
  opcode : BitVec 4
  /-- Input port `sh_kind` (R11): two wires, so no fifth kind can be presented (R171). -/
  shKind : BitVec 2
  /-- Input port `sh_amount` (R11). -/
  shAmount : Word
  /-- Input port `sh_value` (R11). -/
  shValue : Word
  /-- Input port `sh_carry_in` (R11): the caller's carry flag `C` (R14, R23). -/
  carryIn : Bool
  /-- The caller's register file `x` (R14, R33), read by the resolution contract only. -/
  x : Vector Word 16
  /-- The outputs handed to the caller by the last evaluation. -/
  out : Output
  deriving DecidableEq, Repr

/-- The two invariant violations of R171. No evaluation on the ports raises one, since the ports are
exactly as wide as their domains; the calls `classifyInt` and `shiftInt`, whose argument is a number,
raise them. Stopping there is safe: the spec forbids every answer. -/
inductive Fault where
  /-- `opcode` above 0xF at the Opcode Classifier (R103); raised by `classifyNat`, in a step of the call `classifyInt`.
  Safe. -/
  | opcodeOutOfRange
  /-- A kind outside the four at the Shift Engine (R88); raised by `shiftNat`, in a step of the call `shiftInt`. Safe. -/
  | shiftKindOutOfRange
  deriving DecidableEq, Repr

/-- The block refuses nothing (R63); the one constructor is the interface's. -/
inductive Refusal where
  /-- Raised by no arm: every instruction has its meaning. It would be safe. -/
  | notModelled (mnemonic : String)
  deriving DecidableEq, Repr

/-- Right after reset. The block has no reset value of its own (R31, R185); the inputs are zero and the
outputs are what the rules give for them (R186). DESIGN CHOICE (log entry 1). -/
def State.reset : State where
  call := .decodeWord
  word := 0
  opcode := 0
  shKind := 0
  shAmount := 0
  shValue := 0
  carryIn := false
  x := Vector.replicate 16 0
  out := .decoded (.alu .and .logical (.register (.immediate 0#5) .logicalLeft 0))

end Sys2Proof.Machine
end

