-- ==== Sys2Proof/Machine/Flags.lean ====
section
/-! DEFINITION. The flag computations: the carry-out of the Shift Engine, bit by bit, and the three
fields of its record that are constant (spec/40_shift_engine.md rule R90, spec/10_state.md rule R27). -/

namespace Sys2Proof.Machine

/-- `value[31]`, the sign bit. -/
def signBit (value : Word) : Bool := value.getLsbD 31

/-- The last bit that leaves at the top in a left shift by `n`, 1 to 32: `value[32 - n]` (R81). -/
def lastBitOutLeft (value : Word) (n : Nat) : Bool := value.getLsbD (32 - n)

/-- The last bit that leaves at the bottom in a right shift or rotation by `n`, 1 to 32:
`value[n - 1]` (R82, R83, R84). -/
def lastBitOutRight (value : Word) (n : Nat) : Bool := value.getLsbD (n - 1)

/-- The record of a raw shift: `overflow`, `sign` and `zero` are false whatever the result (R27). -/
def rawShift (result : Word) (carryOut : Bool) : ShiftResult where
  result := result
  carryOut := carryOut
  overflow := false
  sign := false
  zero := false

end Sys2Proof.Machine
end

