-- ==== Sys2Proof/Machine/Ops.lean ====
section
/-! DEFINITION. The shared operations: the helpers of R13, the Shift Engine (spec/40_shift_engine.md),
the contracts for integer arguments (R171), and the accessors of the state. The block takes no
exception and returns from none (spec/60_exceptions.md rules R170, R176), and it has no memory
(spec/20_memory.md rule R40): there is no such operation to write. -/

namespace Sys2Proof.Machine

/-! ## The helpers of R13, over natural numbers and integers so that nothing wraps (R86) -/

/-- `LSL32(a, n)` for 0 to 32: `trunc_32(zext_64(a) * 2^n)`. -/
def lsl32 (a : Word) (n : Nat) : Word := BitVec.ofNat 32 (a.toNat * 2 ^ n)

/-- `LSR32(a, n)` for 0 to 32: `floor(a / 2^n)`. -/
def lsr32 (a : Word) (n : Nat) : Word := BitVec.ofNat 32 (a.toNat / 2 ^ n)

/-- `ASR32(a, n)` for 0 to 31: `trunc_32(floor(signed(a) / 2^n))`. -/
def asr32 (a : Word) (n : Nat) : Word := BitVec.ofInt 32 (a.toInt / 2 ^ n)

/-- `ROR32(a, n)` for 0 to 31. -/
def ror32 (a : Word) (n : Nat) : Word := if n = 0 then a else lsr32 a n ||| lsl32 a (32 - n)

/-- `Replicate32(b)`. -/
def replicate32 (b : Bool) : Word := if b then 0xFFFFFFFF#32 else 0x00000000#32

/-! ## The Shift Engine -/

/-- R81. -/
def shiftLSL (amount value : Word) (carryIn : Bool) : ShiftResult :=
  if amount = 0#32 then rawShift value carryIn
  else if amount.toNat ≤ 32 then rawShift (lsl32 value amount.toNat) (lastBitOutLeft value amount.toNat)
  else rawShift 0#32 false

/-- R82: an amount of 0 encodes LSR by 32. -/
def shiftLSR (amount value : Word) : ShiftResult :=
  if amount = 0#32 then rawShift 0#32 (signBit value)
  else if amount.toNat ≤ 32 then rawShift (lsr32 value amount.toNat) (lastBitOutRight value amount.toNat)
  else rawShift 0#32 false

/-- R83: an amount of 0 behaves as 32 or more, and so does every amount from 32 up. -/
def shiftASR (amount value : Word) : ShiftResult :=
  if 1 ≤ amount.toNat ∧ amount.toNat ≤ 31 then
    rawShift (asr32 value amount.toNat) (lastBitOutRight value amount.toNat)
  else rawShift (replicate32 (signBit value)) (signBit value)

/-- R84, for an amount that is not 0: a multiple of 32 rotates by 32. -/
def shiftROR (amount value : Word) : ShiftResult :=
  let n := amount.toNat % 32
  if n = 0 then rawShift value (signBit value)
  else rawShift (ror32 value n) (lastBitOutRight value n)

/-- R85: the carry enters at bit 31 and bit 0 leaves. -/
def shiftRRX (value : Word) (carryIn : Bool) : ShiftResult :=
  rawShift (lsl32 (BitVec.ofBool carryIn |>.setWidth 32) 31 ||| lsr32 value 1) (value.getLsbD 0)

/-- Rotate right as R80 dispatches it: an amount of exactly 0 is RRX. -/
def shiftRotate (amount value : Word) (carryIn : Bool) : ShiftResult :=
  if amount = 0#32 then shiftRRX value carryIn else shiftROR amount value

/-- The Shift Engine (R80). -/
def shift (kind : ShiftKind) (amount value : Word) (carryIn : Bool) : ShiftResult :=
  match kind with
  | .logicalLeft => shiftLSL amount value carryIn
  | .logicalRight => shiftLSR amount value
  | .arithmeticRight => shiftASR amount value
  | .rotateRight => shiftRotate amount value carryIn

/-! ## The contracts for callers whose argument is wider than the port (R171, R103, R88) -/

/-- `classify(opcode: 0..=0xF)` for an integer: above 0xF no mnemonic, never a default. -/
def classifyNat (opcode : Nat) : Except Fault Mnemonic :=
  if opcode ≤ 0xF then .ok (classify (BitVec.ofNat 4 opcode)) else .error .opcodeOutOfRange

/-- `shift` for an integer kind: outside the four enumerants no result. -/
def shiftNat (kind : Nat) (amount value : Word) (carryIn : Bool) : Except Fault ShiftResult :=
  if kind ≤ 3 then .ok (shift (kindOf (BitVec.ofNat 2 kind)) amount value carryIn)
  else .error .shiftKindOutOfRange

/-! ## The state's accessors -/

/-- `x[i]` (R14): the caller's register, every index alike (R22). -/
def State.readReg (s : State) (i : RegIndex) : Word := s.x[i.toNat]

/-- Hand an output to the caller: the only write of a step (R7). -/
def State.emit (s : State) (o : Output) : State := { s with out := o }

/-- The call `classify` with a number (R100, R171): the classifier's answer, or a hard failure to the
caller (R172) with nothing handed out. -/
def State.runClassifyInt (s : State) (opcode : Nat) : Host.Outcome State Fault Refusal :=
  match classifyNat opcode with
  | .ok m => .next (s.emit (.classified m (familyOf m)))
  | .error f => .fault f

/-- The call `shift` with a number as kind (R80, R171): amount, value and carry are the ports'. -/
def State.runShiftInt (s : State) (kind : Nat) : Host.Outcome State Fault Refusal :=
  match shiftNat kind s.shAmount s.shValue s.carryIn with
  | .ok r => .next (s.emit (.shifted r))
  | .error f => .fault f

/-! ## What the caller can do between steps (R11, R33, R187) -/

/-- Present a word to a contract that reads the `word` port. -/
def State.presentWord (s : State) (c : Call) (w : Word) : State := { s with call := c, word := w }

/-- Present a number as a word; one that does not fit 32 bits is not cut down and changes nothing. -/
def State.presentWide (s : State) (c : Call) (w : Nat) : State :=
  if w < 2 ^ 32 then s.presentWord c (BitVec.ofNat 32 w) else s

/-- Present a number to the Opcode Classifier. -/
def State.presentOpcode (s : State) (opcode : BitVec 4) : State := { s with call := .classify, opcode := opcode }

/-- Present a kind, an amount and a value to the Shift Engine; the carry is the caller's flag. -/
def State.presentShift (s : State) (kind : BitVec 2) (amount value : Word) : State :=
  { s with call := .shift, shKind := kind, shAmount := amount, shValue := value }

/-- Make a call; no port changes. With it the caller hands a number to `classify` or `shift`. -/
def State.presentCall (s : State) (c : Call) : State := { s with call := c }

/-- The caller changes its carry flag (R23: "mutation is the responsibility of the execution stage"). -/
def State.callerSetsCarry (s : State) (c : Bool) : State := { s with carryIn := c }

/-- The caller changes a register of its own (R21). -/
def State.callerSetsReg (s : State) (i : RegIndex) (v : Word) : State := { s with x := s.x.set i.toNat v }

end Sys2Proof.Machine
end

