-- ==== Sys2Proof/Machine/Operands.lean ====
section
/-! DEFINITION. Every operand form: the value of an immediate (spec/42_second_operand.md rule R132) and
the resolution contract of R138, which composes a descriptor with the Shift Engine and the caller's
registers and carry. The three places the document leaves open are parameters (R10). -/

namespace Sys2Proof.Machine

/-- `ImmValue` (R132): a plain rotation, never a Shift Engine call (R139). -/
def immValue (base : BitVec 8) (rotation : BitVec 5) : Word := ror32 (base.setWidth 32) rotation.toNat

/-- An immediate operand: its value, and no carry (R132, D9). -/
def immOperand (base : BitVec 8) (rotation : BitVec 5) : Operand := ⟨immValue base rotation, none⟩

/-- The part of a Shift Engine record that carries information (R27). -/
def operandOf (r : ShiftResult) : Operand := ⟨r.result, some r.carryOut⟩

/-- A register operand shifted by a constant (R138): an amount of 0 keeps its special meaning. -/
def shiftedByImm (kind : ShiftKind) (n : BitVec 5) (value : Word) (carryIn : Bool) : Operand :=
  operandOf (shift kind (n.setWidth 32) value carryIn)

/-- A register operand shifted by a register (R138), with the open parameters D7 and D8. -/
def shiftedByReg (p : ResolveParams) (kind : ShiftKind) (amountReg value : Word) (carryIn : Bool) : Operand :=
  if p.regZeroBypass ∧ p.amountOfReg amountReg = 0#32 then ⟨value, some carryIn⟩
  else operandOf (shift kind (p.amountOfReg amountReg) value carryIn)

/-- `ResolveOp2` (R138). -/
def resolveOp2 (p : ResolveParams) (d : Op2) (x : Vector Word 16) (carryIn : Bool) : Operand :=
  match d with
  | .immediate base rotation => immOperand base rotation
  | .register (.immediate n) kind rm => shiftedByImm kind n x[rm.toNat] carryIn
  | .register (.register rs) kind rm => shiftedByReg p kind x[rs.toNat] x[rm.toNat] carryIn

end Sys2Proof.Machine
end

