-- ==== Sys2Proof/Machine/Alu.lean ====
section
/-! DEFINITION. The sixteen ALU words: classification and the second-operand descriptor
(spec/30_encoding.md rule R53, spec/41_opcode_classifier.md). What a mnemonic computes belongs to the
execution stage outside the block (R120), so no meaning reads a register or the carry. -/

namespace Sys2Proof.Machine

/-- The `Alu` answer of R53 for an opcode: mnemonic, family of the mnemonic, descriptor. -/
def aluAnswer (opcode : BitVec 4) (op2 : Op2) : Decoded :=
  .alu (classify opcode) (familyOf (classify opcode)) op2

/-- Hand the `Alu` answer for an opcode to the caller. -/
def State.emitAlu (s : State) (opcode : BitVec 4) (op2 : Op2) : State :=
  s.emit (.decoded (aluAnswer opcode op2))

/-- AND (R104): opcode 0x0. -/
def execAnd (op2 : Op2) (s : State) : Host.Outcome State Fault Refusal := .next (s.emitAlu 0x0#4 op2)

/-- EOR (R105): opcode 0x1. -/
def execEor (op2 : Op2) (s : State) : Host.Outcome State Fault Refusal := .next (s.emitAlu 0x1#4 op2)

/-- SUB (R106): opcode 0x2. -/
def execSub (op2 : Op2) (s : State) : Host.Outcome State Fault Refusal := .next (s.emitAlu 0x2#4 op2)

/-- RSB (R107): opcode 0x3. -/
def execRsb (op2 : Op2) (s : State) : Host.Outcome State Fault Refusal := .next (s.emitAlu 0x3#4 op2)

/-- ADD (R108): opcode 0x4. -/
def execAdd (op2 : Op2) (s : State) : Host.Outcome State Fault Refusal := .next (s.emitAlu 0x4#4 op2)

/-- ADC (R109): opcode 0x5. -/
def execAdc (op2 : Op2) (s : State) : Host.Outcome State Fault Refusal := .next (s.emitAlu 0x5#4 op2)

/-- SBC (R110): opcode 0x6. -/
def execSbc (op2 : Op2) (s : State) : Host.Outcome State Fault Refusal := .next (s.emitAlu 0x6#4 op2)

/-- RSC (R111): opcode 0x7. -/
def execRsc (op2 : Op2) (s : State) : Host.Outcome State Fault Refusal := .next (s.emitAlu 0x7#4 op2)

/-- TST (R112): opcode 0x8. -/
def execTst (op2 : Op2) (s : State) : Host.Outcome State Fault Refusal := .next (s.emitAlu 0x8#4 op2)

/-- TEQ (R113): opcode 0x9. -/
def execTeq (op2 : Op2) (s : State) : Host.Outcome State Fault Refusal := .next (s.emitAlu 0x9#4 op2)

/-- CMP (R114): opcode 0xA. -/
def execCmp (op2 : Op2) (s : State) : Host.Outcome State Fault Refusal := .next (s.emitAlu 0xA#4 op2)

/-- CMN (R115): opcode 0xB. -/
def execCmn (op2 : Op2) (s : State) : Host.Outcome State Fault Refusal := .next (s.emitAlu 0xB#4 op2)

/-- ORR (R116): opcode 0xC. -/
def execOrr (op2 : Op2) (s : State) : Host.Outcome State Fault Refusal := .next (s.emitAlu 0xC#4 op2)

/-- MOV (R117): opcode 0xD. -/
def execMov (op2 : Op2) (s : State) : Host.Outcome State Fault Refusal := .next (s.emitAlu 0xD#4 op2)

/-- BIC (R118): opcode 0xE. -/
def execBic (op2 : Op2) (s : State) : Host.Outcome State Fault Refusal := .next (s.emitAlu 0xE#4 op2)

/-- MVN (R119): opcode 0xF. -/
def execMvn (op2 : Op2) (s : State) : Host.Outcome State Fault Refusal := .next (s.emitAlu 0xF#4 op2)

end Sys2Proof.Machine
end

