-- ==== Sys2Proof/Machine/OperandForms.lean ====
section
/-! DEFINITION. The ten operand forms (spec/42_second_operand.md rule R141): the descriptor the
Second-Operand Decoder produces (R131, R134, R135) and, beside it, the operand it resolves to by the
contract of R138 with the caller's registers and carry, through the Shift Engine operation the row
names. Neither a register nor the carry is written (R7). -/

namespace Sys2Proof.Machine

/-- Hand a descriptor and its resolution to the caller. -/
def State.emitOperand (s : State) (d : Op2) (r : Operand) : State := s.emit (.operand d r)

/-- OP2_IMM (R131): `shift` is twice the rotate count; the value is `ImmValue` (R132), with no carry. -/
def execOpImm (rotateCount : BitVec 4) (base : BitVec 8) (s : State) : Host.Outcome State Fault Refusal :=
  .next (s.emitOperand (.immediate base (doubled rotateCount)) (immOperand base (doubled rotateCount)))

/-- LSL_IMM (R134, R81): a constant of 0 passes the register and the carry through. -/
def execLslImm (n : BitVec 5) (rm : RegIndex) (s : State) : Host.Outcome State Fault Refusal :=
  .next (s.emitOperand (.register (.immediate n) .logicalLeft rm)
    (operandOf (shiftLSL (n.setWidth 32) (s.readReg rm) s.carryIn)))

/-- LSR_IMM (R134, R82): a constant of 0 means 32. -/
def execLsrImm (n : BitVec 5) (rm : RegIndex) (s : State) : Host.Outcome State Fault Refusal :=
  .next (s.emitOperand (.register (.immediate n) .logicalRight rm)
    (operandOf (shiftLSR (n.setWidth 32) (s.readReg rm))))

/-- ASR_IMM (R134, R83): a constant of 0 means 32. -/
def execAsrImm (n : BitVec 5) (rm : RegIndex) (s : State) : Host.Outcome State Fault Refusal :=
  .next (s.emitOperand (.register (.immediate n) .arithmeticRight rm)
    (operandOf (shiftASR (n.setWidth 32) (s.readReg rm))))

/-- ROR_IMM (R134, R84): a constant of 1 to 31. A constant of 0 is the RRX row; the engine's own
dispatch (R80) covers it. -/
def execRorImm (n : BitVec 5) (rm : RegIndex) (s : State) : Host.Outcome State Fault Refusal :=
  .next (s.emitOperand (.register (.immediate n) .rotateRight rm)
    (operandOf (shiftRotate (n.setWidth 32) (s.readReg rm) s.carryIn)))

/-- RRX (R134, R85): ROR with the constant 0, kept raw in the descriptor. -/
def execRrx (rm : RegIndex) (s : State) : Host.Outcome State Fault Refusal :=
  .next (s.emitOperand (.register (.immediate 0#5) .rotateRight rm)
    (operandOf (shiftRRX (s.readReg rm) s.carryIn)))

/-- LSL_REG (R135, R138, R81): the amount comes from a register, by the open parameters. -/
def execLslReg (rs rm : RegIndex) (s : State) : Host.Outcome State Fault Refusal :=
  .next (s.emitOperand (.register (.register rs) .logicalLeft rm)
    (shiftedByReg .config .logicalLeft (s.readReg rs) (s.readReg rm) s.carryIn))

/-- LSR_REG (R135, R138, R82): the amount comes from a register, by the open parameters. -/
def execLsrReg (rs rm : RegIndex) (s : State) : Host.Outcome State Fault Refusal :=
  .next (s.emitOperand (.register (.register rs) .logicalRight rm)
    (shiftedByReg .config .logicalRight (s.readReg rs) (s.readReg rm) s.carryIn))

/-- ASR_REG (R135, R138, R83): the amount comes from a register, by the open parameters. -/
def execAsrReg (rs rm : RegIndex) (s : State) : Host.Outcome State Fault Refusal :=
  .next (s.emitOperand (.register (.register rs) .arithmeticRight rm)
    (shiftedByReg .config .arithmeticRight (s.readReg rs) (s.readReg rm) s.carryIn))

/-- ROR_REG (R135, R138, R84, and R85 for a resolved amount of 0): the amount comes from a register, by the open parameters. -/
def execRorReg (rs rm : RegIndex) (s : State) : Host.Outcome State Fault Refusal :=
  .next (s.emitOperand (.register (.register rs) .rotateRight rm)
    (shiftedByReg .config .rotateRight (s.readReg rs) (s.readReg rm) s.carryIn))

end Sys2Proof.Machine
end

