-- ==== Sys2Proof/Machine/Psr.lean ====
section
/-! DEFINITION. The three PSR-transfer shapes (spec/43_psr_transfer.md). The block decodes the transfer
and its operand; it reads and writes no PSR, checks no mode and names no selector (R160, R158, R177). -/

namespace Sys2Proof.Machine

/-- Hand a `PsrTransfer` answer (R53) to the caller. -/
def State.emitPsr (s : State) (k : PsrOperationKind) : State := s.emit (.decoded (.psrTransfer k))

/-- MRS (R151): the destination register, any index. -/
def execMrs (rd : RegIndex) (s : State) : Host.Outcome State Fault Refusal := .next (s.emitPsr (.mrs rd))

/-- MSR, register form (R152): the source register, any index. -/
def execMsr (rm : RegIndex) (s : State) : Host.Outcome State Fault Refusal := .next (s.emitPsr (.msr rm))

/-- MSRFLG (R153): the descriptor of the operand, which is not evaluated. -/
def execMsrFlg (operand : Op2) (s : State) : Host.Outcome State Fault Refusal :=
  .next (s.emitPsr (.msrFlg operand))

end Sys2Proof.Machine
end

