-- ==== Sys2Proof/Machine/ShiftEngine.lean ====
section
/-! DEFINITION. The four kinds of the Shift Engine on its own ports (spec/40_shift_engine.md): the
amount, the value and the carry are those the caller presents. -/

namespace Sys2Proof.Machine

/-- Hand a Shift Engine record to the caller. -/
def State.emitShift (s : State) (r : ShiftResult) : State := s.emit (.shifted r)

/-- LSL (R81). -/
def execLsl (s : State) : Host.Outcome State Fault Refusal :=
  .next (s.emitShift (shiftLSL s.shAmount s.shValue s.carryIn))

/-- LSR (R82). -/
def execLsr (s : State) : Host.Outcome State Fault Refusal :=
  .next (s.emitShift (shiftLSR s.shAmount s.shValue))

/-- ASR (R83). -/
def execAsr (s : State) : Host.Outcome State Fault Refusal :=
  .next (s.emitShift (shiftASR s.shAmount s.shValue))

/-- ROR (R84), and RRX (R85) for an amount of exactly 0 (R80). -/
def execRor (s : State) : Host.Outcome State Fault Refusal :=
  .next (s.emitShift (shiftRotate s.shAmount s.shValue s.carryIn))

end Sys2Proof.Machine
end

