-- ==== Sys2Proof/Machine/Dispatch.lean ====
section
/-! DEFINITION. One arm per row of spec/opcode_table.json. -/

namespace Sys2Proof.Machine

def exec (i : Instr) (s : State) : Host.Outcome State Fault Refusal :=
  match i with
  | .mrs rd => Sys2Proof.Machine.execMrs rd s
  | .msr rm => Sys2Proof.Machine.execMsr rm s
  | .msrFlg operand => Sys2Proof.Machine.execMsrFlg operand s
  | .and op2 => Sys2Proof.Machine.execAnd op2 s
  | .eor op2 => Sys2Proof.Machine.execEor op2 s
  | .sub op2 => Sys2Proof.Machine.execSub op2 s
  | .rsb op2 => Sys2Proof.Machine.execRsb op2 s
  | .add op2 => Sys2Proof.Machine.execAdd op2 s
  | .adc op2 => Sys2Proof.Machine.execAdc op2 s
  | .sbc op2 => Sys2Proof.Machine.execSbc op2 s
  | .rsc op2 => Sys2Proof.Machine.execRsc op2 s
  | .tst op2 => Sys2Proof.Machine.execTst op2 s
  | .teq op2 => Sys2Proof.Machine.execTeq op2 s
  | .cmp op2 => Sys2Proof.Machine.execCmp op2 s
  | .cmn op2 => Sys2Proof.Machine.execCmn op2 s
  | .orr op2 => Sys2Proof.Machine.execOrr op2 s
  | .mov op2 => Sys2Proof.Machine.execMov op2 s
  | .bic op2 => Sys2Proof.Machine.execBic op2 s
  | .mvn op2 => Sys2Proof.Machine.execMvn op2 s
  | .opImm rotateCount base => Sys2Proof.Machine.execOpImm rotateCount base s
  | .lslImm n rm => Sys2Proof.Machine.execLslImm n rm s
  | .lsrImm n rm => Sys2Proof.Machine.execLsrImm n rm s
  | .asrImm n rm => Sys2Proof.Machine.execAsrImm n rm s
  | .rorImm n rm => Sys2Proof.Machine.execRorImm n rm s
  | .rrx rm => Sys2Proof.Machine.execRrx rm s
  | .lslReg rs rm => Sys2Proof.Machine.execLslReg rs rm s
  | .lsrReg rs rm => Sys2Proof.Machine.execLsrReg rs rm s
  | .asrReg rs rm => Sys2Proof.Machine.execAsrReg rs rm s
  | .rorReg rs rm => Sys2Proof.Machine.execRorReg rs rm s
  | .lsl => Sys2Proof.Machine.execLsl s
  | .lsr => Sys2Proof.Machine.execLsr s
  | .asr => Sys2Proof.Machine.execAsr s
  | .ror => Sys2Proof.Machine.execRor s

end Sys2Proof.Machine
end

