-- ==== Sys2Proof/Machine/Step.lean ====
section
/-! DEFINITION. One step: one evaluation of the contract the caller asks for, on the inputs it presents,
inputs in and outputs out (spec/70_reset_and_hazards.md rule R193). -/

namespace Sys2Proof.Machine

/-- Three calls run the instruction their decoder reads from the port; the two whose answer is no table
row answer their component's ports (R100, R150), and the two with a number as argument answer or fail
(R171). -/
def step (s : State) : Host.Outcome State Fault Refusal :=
  match s.call with
  | .decodeWord => exec (decodeWord s.word) s
  | .decodeOp2 => exec (decodeOperandForm s.word) s
  | .shift => exec (decodeKind s.shKind) s
  | .tryDecodePsr => .next (s.emit (.psr (tryDecodePsr s.word)))
  | .classify => .next (s.emit (.classified (classify s.opcode) (familyOf (classify s.opcode))))
  | .classifyInt opcode => s.runClassifyInt opcode
  | .shiftInt kind => s.runShiftInt kind

/-- Present a table row's bits to the component of `tableCall`, so that the next step evaluates exactly
them: the word, or the kind code, and the call; nothing else changes. A kind above 3 is handed over as
the number it is, so that the next step fails (R171), and a number of more than 32 bits is no word and
is not handed over. -/
def State.withFetchWord (s : State) (nbits w : Nat) : State :=
  match tableCall nbits w with
  | .shift => { s with call := .shift, shKind := BitVec.ofNat 2 w }
  | .shiftInt kind => s.presentCall (.shiftInt kind)
  | .decodeWord => s.presentWide .decodeWord w
  | .decodeOp2 => s.presentWide .decodeOp2 w
  | .tryDecodePsr => s.presentWide .tryDecodePsr w
  | .classify => s
  | .classifyInt _ => s

end Sys2Proof.Machine
end

