-- ==== Sys2Proof/Machine/Ports.lean ====
section
/-! DEFINITION. The output signals of spec/00_scope.md rule R11 and their codes (D1, D3, D5). A signal
that carries no meaning in a form is `none`: it has no value there (R11). -/

namespace Sys2Proof.Machine

/-- `family`: 0 Logical, 1 Arithmetic (R102, D5). -/
def familyCode : Family → BitVec 1
  | .logical => 0#1
  | .arithmetic => 1#1

/-- `psr_kind`: 0 Mrs, 1 Msr, 2 MsrFlg (R11). -/
def psrKindCode : PsrOperationKind → BitVec 2
  | .mrs _ => 0#2
  | .msr _ => 1#2
  | .msrFlg _ => 2#2

/-- The outputs of the Second-Operand Decoder (R11). -/
structure Op2Ports where
  op2IsImm : Bool
  immBase : Option (BitVec 8)
  immShift : Option (BitVec 5)
  rm : Option RegIndex
  shiftKind : Option (BitVec 2)
  shiftByReg : Option Bool
  shiftImm : Option (BitVec 5)
  rs : Option RegIndex
  deriving DecidableEq, Repr

/-- The outputs of the PSR-Transfer Decoder (R11); `op2` is the descriptor of an MsrFlg word. -/
structure PsrPorts where
  psrValid : Bool
  psrKind : Option (BitVec 2)
  psrRd : Option RegIndex
  psrRm : Option RegIndex
  op2 : Option Op2Ports
  deriving DecidableEq, Repr

/-- The outputs of the Opcode Classifier (R11): the mnemonic is coded by its opcode number. -/
structure ClassifierPorts where
  mnemonic : BitVec 4
  family : BitVec 1
  deriving DecidableEq, Repr

/-- A descriptor on the ports of the Second-Operand Decoder. -/
def op2Ports : Op2 → Op2Ports
  | .immediate base rotation =>
    { op2IsImm := true, immBase := some base, immShift := some rotation, rm := none,
      shiftKind := none, shiftByReg := none, shiftImm := none, rs := none }
  | .register (.immediate n) kind rm =>
    { op2IsImm := false, immBase := none, immShift := none, rm := some rm,
      shiftKind := some kind.code, shiftByReg := some false, shiftImm := some n, rs := none }
  | .register (.register rs) kind rm =>
    { op2IsImm := false, immBase := none, immShift := none, rm := some rm,
      shiftKind := some kind.code, shiftByReg := some true, shiftImm := none, rs := some rs }

/-- The answer of `TryDecodePsr` on the ports: `psr_valid` = 1 exactly for `some` (R150). -/
def psrPorts : Option PsrOperationKind → PsrPorts
  | none => { psrValid := false, psrKind := none, psrRd := none, psrRm := none, op2 := none }
  | some (.mrs rd) =>
    { psrValid := true, psrKind := some (psrKindCode (.mrs rd)), psrRd := some rd, psrRm := none, op2 := none }
  | some (.msr rm) =>
    { psrValid := true, psrKind := some (psrKindCode (.msr rm)), psrRd := none, psrRm := some rm, op2 := none }
  | some (.msrFlg operand) =>
    { psrValid := true, psrKind := some (psrKindCode (.msrFlg operand)), psrRd := none, psrRm := none,
      op2 := some (op2Ports operand) }

/-- A mnemonic on the classifier's ports (R100). -/
def classifierPorts (m : Mnemonic) : ClassifierPorts := ⟨m.opcode, familyCode (familyOf m)⟩

/-- Every output port of the block at once, as the combinational reading has them (R8, D25). -/
structure BlockPorts where
  psr : PsrPorts
  classifier : ClassifierPorts
  op2 : Op2Ports
  sh : ShiftResult
  deriving DecidableEq, Repr

/-- The output ports, a function of the input ports alone (R8): each component on its own inputs. While
`psr.psrValid` is true the consumer ignores the classifier for that word (D25). -/
def State.ports (s : State) : BlockPorts where
  psr := psrPorts (tryDecodePsr s.word)
  classifier := classifierPorts (classify s.opcode)
  op2 := op2Ports (decodeOp2 s.word)
  sh := shift (kindOf s.shKind) s.shAmount s.shValue s.carryIn

end Sys2Proof.Machine
end

