-- ==== Sys2Proof/Machine/Render.lean ====
section
/-! DEFINITION. The canonical text of the data types (spec/30_encoding.md rules R66 to R74): a function
of decoded data with no effect on any output. The number base, the register names and the tokens are
the spec's decisions D16 to D19. R66 asks for a text of a Family and of a bare ShiftOperator too, which the
spec does not give (N10, N20): they are free texts of Config. -/

namespace Sys2Proof.Machine

/-- `R` and the index in decimal; no aliases (R67). -/
def renderReg (i : RegIndex) : String := "R" ++ Nat.repr i.toNat

/-- R68. -/
def renderMnemonic : Mnemonic → String
  | .and => "AND"
  | .eor => "EOR"
  | .sub => "SUB"
  | .rsb => "RSB"
  | .add => "ADD"
  | .adc => "ADC"
  | .sbc => "SBC"
  | .rsc => "RSC"
  | .tst => "TST"
  | .teq => "TEQ"
  | .cmp => "CMP"
  | .cmn => "CMN"
  | .orr => "ORR"
  | .mov => "MOV"
  | .bic => "BIC"
  | .mvn => "MVN"

/-- R69. -/
def renderKind : ShiftKind → String
  | .logicalLeft => "LSL"
  | .logicalRight => "LSR"
  | .arithmeticRight => "ASR"
  | .rotateRight => "ROR"

/-- The text of a Family, which the spec leaves open (R66, N20; log entry 16). -/
def renderFamily (f : Family) : String := Config.familyText f

/-- The text of a ShiftOperator that stands alone, which the spec leaves open (R66, N10; log entry 16).
Inside a descriptor its text is that of R70. -/
def renderShiftOperator (o : ShiftOperator) : String := Config.shiftOperatorText o

/-- R72. -/
def renderSelector : PsrSelector → String
  | .cpsr => "CPSR"
  | .spsr => "SPSR"

/-- A register shifted by a constant (R70): the three zero-shift cases, then `#n`. -/
def renderShiftImm (n : BitVec 5) (kind : ShiftKind) (rm : RegIndex) : String :=
  if n = 0#5 then
    match kind with
    | .logicalLeft => renderReg rm
    | .rotateRight => renderReg rm ++ ", RRX"
    | .logicalRight => renderReg rm ++ ", LSR #32"
    | .arithmeticRight => renderReg rm ++ ", ASR #32"
  else renderReg rm ++ ", " ++ renderKind kind ++ " #" ++ Nat.repr n.toNat

/-- A descriptor (R70, R71): the zero-shift cases apply to a constant only. -/
def renderOp2 : Op2 → String
  | .register (.immediate n) kind rm => renderShiftImm n kind rm
  | .register (.register rs) kind rm => renderReg rm ++ ", " ++ renderKind kind ++ " " ++ renderReg rs
  | .immediate base rotation => "#" ++ Nat.repr (immValue base rotation).toNat

/-- A PSR operation (R73), with the selector the caller supplies. -/
def renderPsr (p : PsrSelector) : PsrOperationKind → String
  | .mrs rd => "MRS " ++ renderReg rd ++ ", " ++ renderSelector p
  | .msr rm => "MSR " ++ renderSelector p ++ ", " ++ renderReg rm
  | .msrFlg operand => "MSR " ++ renderSelector p ++ "_flg, " ++ renderOp2 operand

/-- The text of what a state's last evaluation handed out: for a PSR transfer the operation, for an ALU
word its mnemonic, its family and its operand in turn, with the selector of the presented word (D6 OPEN). A full
instruction line is outside the block (R74); a Shift Engine record and "not a PSR transfer" have no
text in the spec. -/
def State.text (s : State) : List String :=
  match s.out with
  | .decoded (.psrTransfer k) => [renderPsr (Config.psrSelOf s.word) k]
  | .decoded (.alu m f op2) => [renderMnemonic m, renderFamily f, renderOp2 op2]
  | .psr (some k) => [renderPsr (Config.psrSelOf s.word) k]
  | .psr none => []
  | .classified m f => [renderMnemonic m, renderFamily f]
  | .operand d _ => [renderOp2 d]
  | .shifted _ => []

end Sys2Proof.Machine
end

