-- ==== Sys2Proof/Machine/Contracts.lean ====
section
/-! DEFINITION. The block as its contracts compose it, without instructions: the flow of R53, the
resolution of R138, and the answer to every call as a function of the inputs alone (R8). Statements
hold the step function, which goes through `Instr`, against this reading. -/

namespace Sys2Proof.Machine

/-- `DecodeWord` as R53 writes it. -/
def decodeWordAnswer (w : Word) : Decoded :=
  match tryDecodePsr w with
  | some k => .psrTransfer k
  | none => .alu (classify (opcodeOf w)) (familyOf (classify (opcodeOf w))) (decodeOp2 w)

/-- The answer to the call and the inputs a state holds, or the invariant violation of the call. -/
def State.answer (s : State) : Except Fault Output :=
  match s.call with
  | .decodeWord => .ok (.decoded (decodeWordAnswer s.word))
  | .tryDecodePsr => .ok (.psr (tryDecodePsr s.word))
  | .classify => .ok (.classified (classify s.opcode) (familyOf (classify s.opcode)))
  | .decodeOp2 => .ok (.operand (decodeOp2 s.word) (resolveOp2 .config (decodeOp2 s.word) s.x s.carryIn))
  | .shift => .ok (.shifted (shift (kindOf s.shKind) s.shAmount s.shValue s.carryIn))
  | .classifyInt opcode => (classifyNat opcode).map fun m => .classified m (familyOf m)
  | .shiftInt kind => (shiftNat kind s.shAmount s.shValue s.carryIn).map .shifted

end Sys2Proof.Machine
end

