-- ==== Sys2Proof/Safety.lean ====
section
/-! DEFINITION. What counts as a safe run of the block: no step stops, the outputs keep the invariants
of the data types, and the outputs are those of the present inputs. -/

namespace Sys2Proof.Machine

/-- A step that stops, with a fault or a refusal. No evaluation on the ports does (R63, R170). -/
abbrev State.Stops (s : State) : Prop :=
  match step s with
  | .next _ => False
  | .fault _ => True
  | .refused _ => True

/-- The three constant fields of a Shift Engine record (R27). -/
def rawFlagsFalse (r : ShiftResult) : Bool := !r.overflow && !r.sign && !r.zero

/-- The invariants of what an evaluation hands out: even rotations (R26), a family that is the
mnemonic's (R25), a carry beside every register operand and none beside an immediate (R138, R132), and
the constant fields of a raw shift (R27). -/
def Output.ok : Output → Bool
  | .decoded (.psrTransfer k) => k.wf
  | .decoded (.alu m f op2) => f == familyOf m && op2.wf
  | .psr none => true
  | .psr (some k) => k.wf
  | .classified m f => f == familyOf m
  | .operand (.immediate base rotation) r => (Op2.immediate base rotation).wf && r.carryOut.isNone
  | .operand (.register _ _ _) r => r.carryOut.isSome
  | .shifted r => rawFlagsFalse r

/-- The outputs a state holds are the block's answer to the inputs it holds (R8). -/
abbrev State.Coherent (s : State) : Prop := s.answer.toOption = some s.out

/-- Two states present the same inputs: they may differ in `out` only. -/
def State.sameInputs (s t : State) : Prop :=
  s.call = t.call ∧ s.word = t.word ∧ s.opcode = t.opcode ∧ s.shKind = t.shKind ∧ s.shAmount = t.shAmount ∧
    s.shValue = t.shValue ∧ s.carryIn = t.carryIn ∧ s.x = t.x

end Sys2Proof.Machine
end

