-- ==== Sys2Proof/Certificates/Slice0/Obligations.lean ====
section
/-! DEFINITION. The statements for the provers, from the numbered rules of spec/. Where a statement rests
on a decision of the spec or a choice of the model, its docstring says so. Values are written with
Lean's own operations on bit vectors, not with the model's helpers, so that a wrong helper fails them. -/

open Sys2Proof Sys2Proof.Machine

/-! ## Encoding and decoding -/

/-- A few words written out in the spec (V-TOP, V-PSR, P4, P5, V-OP2) decode to what it says they are. -/
def Obligations.SpecWordsDecodeToTheirInstructions : Prop :=
  decodeWord 0xE10F3000#32 = .mrs 3#4 ∧
  decodeWord 0xE169F005#32 = .msr 5#4 ∧
  decodeWord 0xE328F20F#32 = .msrFlg (.immediate 0x0F#8 4#5) ∧
  decodeWord 0xE0412003#32 = .sub (.register (.immediate 0#5) .logicalLeft 3#4) ∧
  decodeWord 0xE10F3001#32 = .tst (.register (.immediate 0#5) .logicalLeft 1#4) ∧
  decodeWord 0xE0802433#32 = .add (.register (.register 4#4) .logicalRight 3#4) ∧
  decodeOperandForm 0xE3A001FF#32 = .opImm 1#4 0xFF#8 ∧
  decodeOperandForm 0xE1A00FE5#32 = .rorImm 31#5 5#4 ∧
  decodeOperandForm 0xE1A00065#32 = .rrx 5#4 ∧
  decodeOperandForm 0xE0802433#32 = .lsrReg 4#4 3#4 ∧
  decodeKind 0b10#2 = .asr

/-- Decode and encode agree on every well-formed instruction, at every value of every operand
(R51, R59, R60, R141; the opcode position and the kind codes are the spec's decisions D4 and D3). -/
def Obligations.DecodingAnEncodingGivesTheInstruction : Prop :=
  ∀ i : Instr, i.wf = true → decodeAt i.call (encode i) = .ok i

/-- What a decoder answers is well formed, belongs to the call, and its row of spec/opcode_table.json
matches the bits that were read (R60, R141, R59; D3, D4). -/
def Obligations.DecodedInstructionLiesInItsTableRow : Prop :=
  ∀ (c : Call) (w : Word) (i : Instr), decodeAt c w = .ok i →
    i.wf = true ∧ i.call = c ∧ i.row.accepts w = true

/-- The Second-Operand Decoder reads bit 25 and bits 11:0 only, and in the shift-by-register form not
bit 7 (R130, R135; the independence vector of spec/95_test_vectors.md). -/
def Obligations.OnlyOperandBitsReachTheDescriptor : Prop :=
  (∀ w m : Word, m &&& 0x02000FFF#32 = 0#32 → decodeOp2 (w ^^^ m) = decodeOp2 w) ∧
  (∀ w : Word, w.getLsbD 25 = false → w.getLsbD 4 = true → decodeOp2 (w ^^^ 0x80#32) = decodeOp2 w)

/-- The PSR-Transfer Decoder ignores bits 31:28 and bit 22, and the whole flow ignores bits 31:28
(R158, R52; the reading of unread bits is the spec's decision D15). -/
def Obligations.PsrDecoderIgnoresFreeBits : Prop :=
  (∀ w m : Word, m &&& 0x0FBFFFFF#32 = 0#32 → tryDecodePsr (w ^^^ m) = tryDecodePsr w) ∧
  (∀ w m : Word, m &&& 0x0FFFFFFF#32 = 0#32 → decodeWord (w ^^^ m) = decodeWord w)

/-- The register form's fields, as numbers (R133; the kind codes are the spec's decision D3). -/
def Obligations.RegisterFormFieldsAreReadRight : Prop :=
  ∀ w : Word, w.getLsbD 25 = false →
    ∃ kind : ShiftKind,
      decodeOp2 w = .register
        (if w.getLsbD 4 then .register (BitVec.ofNat 4 (w.toNat / 2 ^ 8)) else .immediate (BitVec.ofNat 5 (w.toNat / 2 ^ 7)))
        kind (BitVec.ofNat 4 w.toNat) ∧
      (w.toNat / 2 ^ 5 % 4 = 0 → kind = .logicalLeft) ∧
      (w.toNat / 2 ^ 5 % 4 = 1 → kind = .logicalRight) ∧
      (w.toNat / 2 ^ 5 % 4 = 2 → kind = .arithmeticRight) ∧
      (w.toNat / 2 ^ 5 % 4 = 3 → kind = .rotateRight)

/-- R131 whole: the two fields, the range of `shift`, its ends, two encodings of one value kept
distinct, and the document's example. -/
def Obligations.ImmediateFormFieldsAreReadRight : Prop :=
  (∀ w : Word, w.getLsbD 25 = true →
    decodeOp2 w = .immediate (BitVec.ofNat 8 w.toNat) (BitVec.ofNat 5 (w.toNat / 2 ^ 8 % 16 * 2))) ∧
  (∀ (w : Word) (base : BitVec 8) (rotation : BitVec 5), decodeOp2 w = .immediate base rotation →
    rotation.toNat % 2 = 0 ∧ rotation.toNat ≤ 30 ∧
    (w.toNat / 2 ^ 8 % 16 = 0 → rotation = 0#5) ∧ (w.toNat / 2 ^ 8 % 16 = 15 → rotation = 30#5)) ∧
  decodeOp2 0x02000001#32 = .immediate 0x01#8 0#5 ∧ decodeOp2 0x02000104#32 = .immediate 0x04#8 2#5 ∧
  immValue 0x01#8 0#5 = 1#32 ∧ immValue 0x04#8 2#5 = 1#32 ∧
  decodeOp2 0xE3A001FF#32 = .immediate 0xFF#8 2#5

/-- The three patterns as the document's predicates on fields, read high bit first (R60, R61, reading A
of conflict C1), with the operand each shape extracts. -/
def Obligations.PsrPatternsAreTheirFieldPredicates : Prop :=
  ∀ w : Word,
    (tryDecodePsr w = some (.mrs (w.extractLsb' 12 4)) ↔
      w.extractLsb' 23 5 = 0b00010#5 ∧ w.extractLsb' 16 6 = 0b001111#6 ∧ w.extractLsb' 0 12 = 0#12) ∧
    (tryDecodePsr w = some (.msr (w.extractLsb' 0 4)) ↔
      w.extractLsb' 23 5 = 0b00010#5 ∧ w.extractLsb' 12 10 = 0b1010011111#10 ∧ w.extractLsb' 4 8 = 0#8) ∧
    (tryDecodePsr w = some (.msrFlg (decodeOp2 w)) ↔
      w.extractLsb' 26 2 = 0b00#2 ∧ w.extractLsb' 23 2 = 0b10#2 ∧ w.extractLsb' 12 10 = 0b1010001111#10)

/-- The three shapes exclude each other, and bits 21 and 16 tell them apart (R155; its proof and its
counts are the spec's own derivation). -/
def Obligations.PsrShapesExcludeEachOther : Prop :=
  (∀ w : Word,
    (mrsPattern.accepts w = true → msrPattern.accepts w = false ∧ msrFlgPattern.accepts w = false ∧ w.getLsbD 21 = false) ∧
    (msrPattern.accepts w = true → msrFlgPattern.accepts w = false ∧ w.getLsbD 21 = true ∧ w.getLsbD 16 = true) ∧
    (msrFlgPattern.accepts w = true → w.getLsbD 21 = true ∧ w.getLsbD 16 = false)) ∧
  Nat.card {w : Word // mrsPattern.accepts w = true} = 512 ∧
  Nat.card {w : Word // msrPattern.accepts w = true} = 512 ∧
  Nat.card {w : Word // msrFlgPattern.accepts w = true} = 262144

/-- R154: the patterns are tried in the order Mrs, Msr, MsrFlg and the first match is returned; every
other order, and asking all three at once, gives the same answer. -/
def Obligations.PsrPriorityOrderIsUnobservable : Prop :=
  ∀ (w : Word) (a b c : Option PsrOperationKind),
    a = (if mrsPattern.accepts w then some (.mrs (w.extractLsb' 12 4)) else none) →
    b = (if msrPattern.accepts w then some (.msr (w.extractLsb' 0 4)) else none) →
    c = (if msrFlgPattern.accepts w then some (.msrFlg (decodeOp2 w)) else none) →
    tryDecodePsr w = ((a.or b).or c) ∧
    tryDecodePsr w = ((a.or c).or b) ∧
    tryDecodePsr w = ((b.or a).or c) ∧
    tryDecodePsr w = ((b.or c).or a) ∧
    tryDecodePsr w = ((c.or a).or b) ∧
    tryDecodePsr w = ((c.or b).or a) ∧
    (∀ k, tryDecodePsr w = some k ↔ a = some k ∨ b = some k ∨ c = some k)

/-- Where the PSR shapes sit in the ALU word space, and that they do not fill it (R159, an inference of
the spec over its decision D4). -/
def Obligations.PsrShapesSitOnTheComparisonOpcodes : Prop :=
  (∀ w : Word, mrsPattern.accepts w = true →
    w.getLsbD 20 = false ∧ classify (opcodeOf w) = (if w.getLsbD 22 then .cmp else .tst)) ∧
  (∀ w : Word, msrPattern.accepts w = true ∨ msrFlgPattern.accepts w = true →
    w.getLsbD 20 = false ∧ classify (opcodeOf w) = (if w.getLsbD 22 then .cmn else .teq)) ∧
  (tryDecodePsr 0xE10F3001#32 = none ∧ classify (opcodeOf 0xE10F3001#32) = .tst ∧
    (0xE10F3001#32).getLsbD 20 = false)

/-- R101 whole: the sixteen rows in the list's order, each way, and no collisions. -/
def Obligations.ClassifyIsTheListedBijection : Prop :=
  (List.range 16).map (fun k => classify (BitVec.ofNat 4 k)) =
    [.and, .eor, .sub, .rsb, .add, .adc, .sbc, .rsc, .tst, .teq, .cmp, .cmn, .orr, .mov, .bic, .mvn] ∧
  (∀ o : BitVec 4, (classify o).opcode = o) ∧
  (∀ m : Mnemonic, classify m.opcode = m) ∧
  (classify 0x9#4 = .teq ∧ familyOf .teq = .logical) ∧
  (classify 0x2#4 = .sub ∧ familyOf .sub = .arithmetic)

/-- The family table and its opcodes (R102; the port code 0 or 1 is the spec's decision D5). -/
def Obligations.FamilyIsTheListedSplit : Prop :=
  (∀ m : Mnemonic, familyOf m = .logical ↔ m ∈ [.and, .eor, .tst, .teq, .orr, .mov, .bic, .mvn]) ∧
  (∀ m : Mnemonic, familyOf m = .arithmetic ↔ m ∈ [.sub, .rsb, .add, .adc, .sbc, .rsc, .cmp, .cmn]) ∧
  (∀ o : BitVec 4, familyOf (classify o) = .arithmetic ↔ (2 ≤ o.toNat ∧ o.toNat ≤ 7) ∨ o = 0xA#4 ∨ o = 0xB#4) ∧
  (familyCode .logical = 0#1 ∧ familyCode .arithmetic = 1#1)

/-! ## What each instruction does: it completes, with this output and nothing else changed -/

/-- MRS, MSR and MSRFLG complete with their shape and operand, whatever the registers and the carry are
(R151, R152, R153, R160). -/
def Obligations.PsrTransfersCompleteWithTheirShape : Prop :=
  ∀ (s : State) (r : RegIndex) (d : Op2),
    exec (.mrs r) s = .next { s with out := .decoded (.psrTransfer (.mrs r)) } ∧
    exec (.msr r) s = .next { s with out := .decoded (.psrTransfer (.msr r)) } ∧
    exec (.msrFlg d) s = .next { s with out := .decoded (.psrTransfer (.msrFlg d)) }

/-- The sixteen ALU words complete with mnemonic, family and descriptor (R104 to R119, R53). -/
def Obligations.AluWordsCompleteWithTheirClassification : Prop :=
  ∀ (s : State) (d : Op2),
    exec (.and d) s = .next { s with out := .decoded (.alu .and .logical d) } ∧
    exec (.eor d) s = .next { s with out := .decoded (.alu .eor .logical d) } ∧
    exec (.sub d) s = .next { s with out := .decoded (.alu .sub .arithmetic d) } ∧
    exec (.rsb d) s = .next { s with out := .decoded (.alu .rsb .arithmetic d) } ∧
    exec (.add d) s = .next { s with out := .decoded (.alu .add .arithmetic d) } ∧
    exec (.adc d) s = .next { s with out := .decoded (.alu .adc .arithmetic d) } ∧
    exec (.sbc d) s = .next { s with out := .decoded (.alu .sbc .arithmetic d) } ∧
    exec (.rsc d) s = .next { s with out := .decoded (.alu .rsc .arithmetic d) } ∧
    exec (.tst d) s = .next { s with out := .decoded (.alu .tst .logical d) } ∧
    exec (.teq d) s = .next { s with out := .decoded (.alu .teq .logical d) } ∧
    exec (.cmp d) s = .next { s with out := .decoded (.alu .cmp .arithmetic d) } ∧
    exec (.cmn d) s = .next { s with out := .decoded (.alu .cmn .arithmetic d) } ∧
    exec (.orr d) s = .next { s with out := .decoded (.alu .orr .logical d) } ∧
    exec (.mov d) s = .next { s with out := .decoded (.alu .mov .logical d) } ∧
    exec (.bic d) s = .next { s with out := .decoded (.alu .bic .logical d) } ∧
    exec (.mvn d) s = .next { s with out := .decoded (.alu .mvn .logical d) }

/-- OP2_IMM completes with the pair kept, the value a plain rotation of the base, which for a count of 0
is the base itself, and no carry (R131, R132, R139; the absent carry is the spec's decision D9; the resolution beside the descriptor is
the model's choice, log entry 8). -/
def Obligations.ImmediateOperandIsItsRotatedBase : Prop :=
  ∀ (s : State) (rotateCount : BitVec 4) (base : BitVec 8),
    exec (.opImm rotateCount base) s = .next { s with
      out := (.operand (.immediate base (BitVec.ofNat 5 (2 * rotateCount.toNat)))
        ⟨(base.setWidth 32).rotateRight (2 * rotateCount.toNat), none⟩) } ∧
    (rotateCount = 0#4 → (base.setWidth 32).rotateRight (2 * rotateCount.toNat) = base.setWidth 32)

/-- R62 whole, as the five shift-by-constant rows resolve: a constant of 1 to 31 shifts by that many
bits for every kind, and a constant of 0, kept raw in the descriptor, is no shift with the carry kept
for LSL, a shift by 32 for LSR and ASR, and RRX for ROR (the resolution beside the descriptor is the
model's choice, log entry 8). -/
def Obligations.ConstantShiftsResolveByTheirEncodings : Prop :=
  ∀ (s : State) (n : BitVec 5) (rm : RegIndex) (v : Word), v = s.x[rm.toNat] →
    (n ≠ 0#5 →
      exec (.lslImm n rm) s = .next { s with out := (.operand (.register (.immediate n) .logicalLeft rm)
        ⟨v <<< n.toNat, some (v.getLsbD (32 - n.toNat))⟩) } ∧
      exec (.lsrImm n rm) s = .next { s with out := (.operand (.register (.immediate n) .logicalRight rm)
        ⟨v >>> n.toNat, some (v.getLsbD (n.toNat - 1))⟩) } ∧
      exec (.asrImm n rm) s = .next { s with out := (.operand (.register (.immediate n) .arithmeticRight rm)
        ⟨v.sshiftRight n.toNat, some (v.getLsbD (n.toNat - 1))⟩) } ∧
      exec (.rorImm n rm) s = .next { s with out := (.operand (.register (.immediate n) .rotateRight rm)
        ⟨v.rotateRight n.toNat, some (v.getLsbD (n.toNat - 1))⟩) }) ∧
    exec (.lslImm 0#5 rm) s = .next { s with out := (.operand (.register (.immediate 0#5) .logicalLeft rm)
      ⟨v, some s.carryIn⟩) } ∧
    exec (.lsrImm 0#5 rm) s = .next { s with out := (.operand (.register (.immediate 0#5) .logicalRight rm)
      ⟨v >>> 32, some (v.getLsbD 31)⟩) } ∧
    exec (.asrImm 0#5 rm) s = .next { s with out := (.operand (.register (.immediate 0#5) .arithmeticRight rm)
      ⟨v.sshiftRight 32, some (v.getLsbD 31)⟩) } ∧
    exec (.rrx rm) s = .next { s with out := (.operand (.register (.immediate 0#5) .rotateRight rm)
      ⟨BitVec.ofBool s.carryIn ++ v.extractLsb' 1 31, some (v.getLsbD 0)⟩) }

/-- The four shift-by-register rows complete with their descriptor and the register resolved by the
contract of R138, under the parameters D7 and D8 that the spec leaves open (R135, R136). What that
contract gives is the next statement; that it stands beside the descriptor is the model's choice (log
entry 8). -/
def Obligations.RegisterShiftRowsComplete : Prop :=
  ∀ (s : State) (rs rm : RegIndex),
    exec (.lslReg rs rm) s = .next { s with
      out := (.operand (.register (.register rs) .logicalLeft rm)
        (shiftedByReg .config .logicalLeft s.x[rs.toNat] s.x[rm.toNat] s.carryIn)) } ∧
    exec (.lsrReg rs rm) s = .next { s with
      out := (.operand (.register (.register rs) .logicalRight rm)
        (shiftedByReg .config .logicalRight s.x[rs.toNat] s.x[rm.toNat] s.carryIn)) } ∧
    exec (.asrReg rs rm) s = .next { s with
      out := (.operand (.register (.register rs) .arithmeticRight rm)
        (shiftedByReg .config .arithmeticRight s.x[rs.toNat] s.x[rm.toNat] s.carryIn)) } ∧
    exec (.rorReg rs rm) s = .next { s with
      out := (.operand (.register (.register rs) .rotateRight rm)
        (shiftedByReg .config .rotateRight s.x[rs.toNat] s.x[rm.toNat] s.carryIn)) }

/-- A register shifted by a register, for every value of the open parameters D7 and D8 (R138, with R81 to
R85 for the engine): `a` is the amount the caller's parameter makes of the amount register `r`, `v` the
register that is shifted. -/
def Obligations.RegisterShiftsResolveByRegime : Prop :=
  ∀ (p : ResolveParams) (r v a : Word) (c : Bool), a = p.amountOfReg r →
    (a = 0#32 → p.regZeroBypass = true → ∀ k, shiftedByReg p k r v c = ⟨v, some c⟩) ∧
    (a = 0#32 → p.regZeroBypass = false →
      shiftedByReg p .logicalLeft r v c = ⟨v, some c⟩ ∧
      shiftedByReg p .logicalRight r v c = ⟨0#32, some (v.getLsbD 31)⟩ ∧
      shiftedByReg p .arithmeticRight r v c = ⟨v.sshiftRight 32, some (v.getLsbD 31)⟩ ∧
      shiftedByReg p .rotateRight r v c = ⟨BitVec.ofBool c ++ v.extractLsb' 1 31, some (v.getLsbD 0)⟩) ∧
    (1 ≤ a.toNat → a.toNat ≤ 32 →
      shiftedByReg p .logicalLeft r v c = ⟨v <<< a.toNat, some (v.getLsbD (32 - a.toNat))⟩ ∧
      shiftedByReg p .logicalRight r v c = ⟨v >>> a.toNat, some (v.getLsbD (a.toNat - 1))⟩ ∧
      shiftedByReg p .arithmeticRight r v c = ⟨v.sshiftRight a.toNat, some (v.getLsbD (a.toNat - 1))⟩ ∧
      shiftedByReg p .rotateRight r v c = ⟨v.rotateRight a.toNat, some (v.getLsbD (a.toNat - 1))⟩) ∧
    (33 ≤ a.toNat →
      shiftedByReg p .logicalLeft r v c = ⟨0#32, some false⟩ ∧
      shiftedByReg p .logicalRight r v c = ⟨0#32, some false⟩ ∧
      shiftedByReg p .arithmeticRight r v c = ⟨v.sshiftRight 32, some (v.getLsbD 31)⟩ ∧
      shiftedByReg p .rotateRight r v c =
        ⟨v.rotateRight a.toNat, some ((v.rotateRight a.toNat).getLsbD 31)⟩)

/-! ## The Shift Engine on its own ports -/

/-- R81: the three regimes, the amounts 31 and 32, that amount 0 is the only case of the whole engine that
passes value and carry through, and the worked example. That the carry of 1 to 32 is bit 32 of the
64-bit intermediate is an inference that R81 marks as derived from its formula. -/
def Obligations.LslFollowsItsRegimes : Prop :=
  (∀ (s : State) (v : Word) (a : Nat), v = s.shValue → a = s.shAmount.toNat →
    (a = 0 → exec .lsl s = .next { s with out := .shifted ⟨v, s.carryIn, false, false, false⟩ }) ∧
    (1 ≤ a → a ≤ 32 →
      exec .lsl s = .next { s with out := .shifted ⟨v <<< a, v.getLsbD (32 - a), false, false, false⟩ } ∧
      v.getLsbD (32 - a) = (v.setWidth 64 <<< a).getLsbD 32) ∧
    (a = 31 → v <<< a = BitVec.ofBool (v.getLsbD 0) ++ 0#31 ∧ v.getLsbD (32 - a) = v.getLsbD 1) ∧
    (a = 32 → v <<< a = 0#32 ∧ v.getLsbD (32 - a) = v.getLsbD 0) ∧
    (33 ≤ a → exec .lsl s = .next { s with out := .shifted ⟨0#32, false, false, false, false⟩ })) ∧
  (∀ (k : ShiftKind) (a : Word),
    (∀ (v : Word) (c : Bool), (shift k a v c).result = v ∧ (shift k a v c).carryOut = c) ↔
      k = .logicalLeft ∧ a = 0#32) ∧
  shift .logicalLeft 4#32 0x12345678#32 false = ⟨0x23456780#32, true, false, false, false⟩

/-- R82 whole: an amount of 0 is a shift by 32 and never a no-op; zeros enter at the top; the carry-in
is not read. -/
def Obligations.LsrFollowsItsRegimes : Prop :=
  (∀ (s : State) (v : Word) (a : Nat), v = s.shValue → a = s.shAmount.toNat →
    (a = 0 ∨ a = 32 → exec .lsr s = .next { s with out := .shifted ⟨0#32, v.getLsbD 31, false, false, false⟩ }) ∧
    (1 ≤ a → a ≤ 32 →
      exec .lsr s = .next { s with out := .shifted ⟨v >>> a, v.getLsbD (a - 1), false, false, false⟩ } ∧
      ∀ k, 32 - a ≤ k → (v >>> a).getLsbD k = false) ∧
    (a = 31 → v >>> a = (BitVec.ofBool (v.getLsbD 31)).setWidth 32 ∧ v.getLsbD (a - 1) = v.getLsbD 30) ∧
    (33 ≤ a → exec .lsr s = .next { s with out := .shifted ⟨0#32, false, false, false, false⟩ })) ∧
  shift .logicalRight 0#32 0x80000001#32 false = ⟨0x00000000#32, true, false, false, false⟩ ∧
  shift .logicalRight 4#32 0x12345678#32 false = ⟨0x01234567#32, true, false, false, false⟩

/-- R83 whole: 1 to 31 shift with the sign; 0 and every amount from 32 give all sign bits and the sign
as carry; at 31 the carry is bit 30. -/
def Obligations.AsrFollowsItsRegimes : Prop :=
  (∀ (s : State) (v : Word) (a : Nat), v = s.shValue → a = s.shAmount.toNat →
    (1 ≤ a → a ≤ 31 →
      exec .asr s = .next { s with out := .shifted ⟨v.sshiftRight a, v.getLsbD (a - 1), false, false, false⟩ }) ∧
    (a = 0 ∨ 32 ≤ a →
      exec .asr s = .next { s with
        out := .shifted ⟨if v.getLsbD 31 then 0xFFFFFFFF#32 else 0#32, v.getLsbD 31, false, false, false⟩ }) ∧
    (a = 31 → v.sshiftRight a = (if v.getLsbD 31 then 0xFFFFFFFF#32 else 0#32) ∧ v.getLsbD (a - 1) = v.getLsbD 30)) ∧
  shift .arithmeticRight 4#32 0x80000001#32 false = ⟨0xF8000000#32, false, false, false, false⟩ ∧
  shift .arithmeticRight 0#32 0x80000001#32 false = ⟨0xFFFFFFFF#32, true, false, false, false⟩

/-- R84: for an amount that is not 0 the rotation is by its remainder, and a multiple of 32 leaves the value
and never reads the carry. That the carry-out is the top bit of the result is an inference that R84 marks
as derived. -/
def Obligations.RorFollowsItsRegimes : Prop :=
  (∀ (s : State) (v : Word) (a : Nat), v = s.shValue → a = s.shAmount.toNat → a ≠ 0 →
    (a % 32 = 0 → exec .ror s = .next { s with out := .shifted ⟨v, v.getLsbD 31, false, false, false⟩ }) ∧
    (a % 32 ≠ 0 →
      exec .ror s = .next { s with
        out := .shifted ⟨v.rotateRight (a % 32), v.getLsbD (a % 32 - 1), false, false, false⟩ } ∧
      v.getLsbD (a % 32 - 1) = (v.rotateRight (a % 32)).getLsbD 31)) ∧
  (∀ (v : Word) (c : Bool),
    shift .rotateRight 33#32 v c = shift .rotateRight 1#32 v c ∧
    shift .rotateRight 0xFFFFFFFF#32 v c = shift .rotateRight 31#32 v c) ∧
  shift .rotateRight 4#32 0x12345678#32 false = ⟨0x81234567#32, true, false, false, false⟩ ∧
  shift .rotateRight 64#32 0x80000001#32 false = ⟨0x80000001#32, true, false, false, false⟩

/-- R85 whole: at amount 0 exactly, the 33-bit quantity of carry and value is rotated right by one place;
no other operation's result depends on the carry-in, and an immediate operand with `shift` 0 is no RRX. -/
def Obligations.RrxRotatesTheCarryIn : Prop :=
  (∀ s : State, s.shAmount = 0#32 →
    ∃ r : ShiftResult, exec .ror s = .next { s with out := .shifted r } ∧
      r.result = BitVec.ofBool s.carryIn ++ s.shValue.extractLsb' 1 31 ∧
      r.carryOut = s.shValue.getLsbD 0 ∧ r.overflow = false ∧ r.sign = false ∧ r.zero = false ∧
      BitVec.ofBool r.carryOut ++ r.result = (BitVec.ofBool s.carryIn ++ s.shValue).rotateRight 1) ∧
  (∀ (k : ShiftKind) (a : Word),
    (∃ (v : Word) (c c' : Bool), (shift k a v c).result ≠ (shift k a v c').result) ↔
      k = .rotateRight ∧ a = 0#32) ∧
  (∀ base : BitVec 8, immValue base 0#5 = base.setWidth 32) ∧
  shift .rotateRight 0#32 0x80000001#32 true = ⟨0xC0000000#32, true, false, false, false⟩ ∧
  shift .rotateRight 0#32 0x80000001#32 false = ⟨0x40000000#32, true, false, false, false⟩

/-- `carry_in` reaches the result only through RRX and the carry-out only through LSL by 0, and there it
does (R92, R23; R92 is the spec's own derivation). -/
def Obligations.CarryInIsReadInTwoCasesOnly : Prop :=
  (∀ (k : ShiftKind) (a v : Word) (c c' : Bool), ¬ (k = .rotateRight ∧ a = 0#32) →
    (shift k a v c).result = (shift k a v c').result) ∧
  (∀ (k : ShiftKind) (a v : Word) (c c' : Bool), ¬ (k = .logicalLeft ∧ a = 0#32) →
    (shift k a v c).carryOut = (shift k a v c').carryOut) ∧
  (∀ v : Word, (shift .rotateRight 0#32 v true).result ≠ (shift .rotateRight 0#32 v false).result) ∧
  (∀ v : Word, (shift .logicalLeft 0#32 v true).carryOut ≠ (shift .logicalLeft 0#32 v false).carryOut)

/-- The eight laws of R91, which the spec derives from R81 to R85. -/
def Obligations.ShiftEngineLaws : Prop :=
  (∀ (v : Word) (c : Bool), ((shift .logicalLeft 0#32 v c).result, (shift .logicalLeft 0#32 v c).carryOut) = (v, c)) ∧
  (∀ k : ShiftKind, k ≠ .logicalLeft → ∃ v c, ((shift k 0#32 v c).result, (shift k 0#32 v c).carryOut) ≠ (v, c)) ∧
  (∀ (v : Word) (c : Bool), shift .logicalRight 0#32 v c = shift .logicalRight 32#32 v c ∧
    shift .arithmeticRight 0#32 v c = shift .arithmeticRight 32#32 v c) ∧
  (∀ (a v : Word) (c : Bool), 33 ≤ a.toNat → shift .logicalLeft a v c = shift .logicalRight a v c ∧
    (shift .logicalLeft a v c).result = 0#32 ∧ (shift .logicalLeft a v c).carryOut = false ∧
    shift .arithmeticRight a v c = shift .arithmeticRight 32#32 v c) ∧
  (∀ (a b v : Word) (c : Bool), 1 ≤ a.toNat → b.toNat = a.toNat + 32 →
    shift .rotateRight a v c = shift .rotateRight b v c) ∧
  (∀ (a v : Word) (c : Bool), 1 ≤ a.toNat →
    (shift .rotateRight a v c).carryOut = (shift .rotateRight a v c).result.getLsbD 31) ∧
  (∀ (a v : Word) (c : Bool), 1 ≤ a.toNat → a.toNat ≤ 31 →
    (shift .logicalRight a v c).carryOut = v.getLsbD (a.toNat - 1) ∧
    (shift .arithmeticRight a v c).carryOut = v.getLsbD (a.toNat - 1) ∧
    (shift .rotateRight a v c).carryOut = v.getLsbD (a.toNat - 1) ∧
    (v.getLsbD 31 = false → (shift .logicalRight a v c).result = (shift .arithmeticRight a v c).result) ∧
    (shift .rotateRight a v c).result =
      (shift .logicalRight a v c).result ||| (shift .logicalLeft (32#32 - a) v c).result) ∧
  (∀ (v : Word) (c : Bool),
    (shift .rotateRight 0#32 v c).result =
      (shift .logicalRight 1#32 v c).result ||| (if c then 0x80000000#32 else 0#32) ∧
    (shift .rotateRight 0#32 v c).carryOut = v.getLsbD 0 ∧ (shift .logicalRight 1#32 v c).carryOut = v.getLsbD 0) ∧
  (∀ (k : ShiftKind) (a v : Word) (c : Bool),
    (shift k a v c).overflow = false ∧ (shift k a v c).sign = false ∧ (shift k a v c).zero = false)

/-- The helpers of R13, bit by bit over the ranges they are defined on, with the amounts 0 and 32. -/
def Obligations.ShiftHelpersMoveBitsAsDefined : Prop :=
  (∀ (a : Word) (n k : Nat), n ≤ 32 → k < 32 →
    (lsl32 a n).getLsbD k = (decide (n ≤ k) && a.getLsbD (k - n)) ∧
    (lsr32 a n).getLsbD k = (decide (k + n < 32) && a.getLsbD (k + n))) ∧
  (∀ (a : Word) (n k : Nat), n ≤ 31 → k < 32 →
    (asr32 a n).getLsbD k = (if k + n ≤ 31 then a.getLsbD (k + n) else a.getLsbD 31) ∧
    (ror32 a n).getLsbD k = a.getLsbD ((k + n) % 32)) ∧
  (∀ a : Word, lsl32 a 32 = 0#32 ∧ lsr32 a 32 = 0#32 ∧ ror32 a 0 = a) ∧
  (replicate32 false = 0x00000000#32 ∧ replicate32 true = 0xFFFFFFFF#32)

/-- R138: the document-literal reading of the open parameters and the ARM7TDMI one give the same operand for
register amounts 1 to 255 and for LSL by a register holding 0; for LSR, ASR and ROR by a register holding 0
they differ for some value and carry; and an operand whose amount comes from no register, shifted by a
constant or immediate, does not depend on the parameters. D7 and D8 stay open. -/
def Obligations.LiteralAndArmReadingsAgreeFrom1To255 : Prop :=
  (∀ (x : Vector Word 16) (c : Bool) (k : ShiftKind) (rs rm : RegIndex),
    1 ≤ x[rs.toNat].toNat → x[rs.toNat].toNat ≤ 255 →
    resolveOp2 .literal (.register (.register rs) k rm) x c = resolveOp2 .armLike (.register (.register rs) k rm) x c) ∧
  (∀ (x : Vector Word 16) (c : Bool) (rs rm : RegIndex), x[rs.toNat] = 0#32 →
    resolveOp2 .literal (.register (.register rs) .logicalLeft rm) x c = ⟨x[rm.toNat], some c⟩ ∧
    resolveOp2 .armLike (.register (.register rs) .logicalLeft rm) x c = ⟨x[rm.toNat], some c⟩) ∧
  (∀ (k : ShiftKind) (rs rm : RegIndex), k ≠ .logicalLeft →
    ∃ (x : Vector Word 16) (c : Bool), x[rs.toNat] = 0#32 ∧
      resolveOp2 .literal (.register (.register rs) k rm) x c ≠ resolveOp2 .armLike (.register (.register rs) k rm) x c) ∧
  (∀ (p q : ResolveParams) (x : Vector Word 16) (c : Bool) (n : BitVec 5) (k : ShiftKind) (rm : RegIndex),
    resolveOp2 p (.register (.immediate n) k rm) x c = resolveOp2 q (.register (.immediate n) k rm) x c) ∧
  (∀ (p q : ResolveParams) (x : Vector Word 16) (c : Bool) (base : BitVec 8) (rotation : BitVec 5),
    resolveOp2 p (.immediate base rotation) x c = resolveOp2 q (.immediate base rotation) x c)

/-! ## The whole machine -/

/-- No instruction changes an input port, the caller's registers or its carry: the frame of all
thirty-three constructors at once (R7, R21, R23, R160). -/
def Obligations.NoInstructionChangesAnInput : Prop :=
  ∀ (i : Instr) (s t : State), exec i s = .next t →
    t.call = s.call ∧ t.word = s.word ∧ t.opcode = s.opcode ∧ t.shKind = s.shKind ∧ t.shAmount = s.shAmount ∧
      t.shValue = s.shValue ∧ t.carryIn = s.carryIn ∧ t.x = s.x

/-- Nothing stops but the invariant violations of R171: every instruction in every state answers a next
state (R63, R88, R136, R170), a step stops exactly when a caller hands over a number outside the domain
(the calls with a number are the model's choice, log entry 12), and no step is a refusal. -/
def Obligations.OnlyInvariantViolationsStop : Prop :=
  (∀ (i : Instr) (s : State), ∃ t, exec i s = .next t) ∧
  (∀ s : State, s.Stops ↔
    (∃ n, s.call = .classifyInt n ∧ 0xF < n) ∨ (∃ n, s.call = .shiftInt n ∧ 3 < n)) ∧
  (∀ s : State, ¬ s.Stops → ∃ t, step s = .next t) ∧
  (∀ (s : State) (r : Refusal), step s ≠ .refused r)

/-- The step function, which goes through `Instr` and one meaning per row, gives what the contracts of
R53, R80, R100, R130 and R150 give on the inputs, and, beside a descriptor, what the resolution contract
of R138 gives, which the spec places outside the block (the model's choice, log entry 8); it changes
nothing else (R8, R193). Where the contract allows no answer (R171) it stops with that violation. -/
def Obligations.StepAnswersByTheContracts : Prop :=
  ∀ s : State,
    (∀ o, s.answer = .ok o → step s = .next { s with out := o }) ∧
    (∀ f, s.answer = .error f → step s = .fault f)

/-- R30 whole: evaluating again changes nothing, and equal inputs give equal outputs, whatever was
evaluated before. -/
def Obligations.ReevaluationGivesTheSameOutputs : Prop :=
  (∀ s t : State, step s = .next t → step t = .next t) ∧
  (∀ s s' t t' : State, s.sameInputs s' → step s = .next t → step s' = .next t' → t.out = t'.out)

/-- The outputs of an evaluation depend on that evaluation's inputs alone (R8, R46, R186): a decoded word
on the word, a classification on the opcode, a shift on its four ports, a descriptor on the word and
only its resolution on the caller's registers and carry. The resolution is that of R138 and stands beside
the descriptor by the model's choice (log entry 8); that an immediate operand's carry is absent is D9 (log
entry 7); the kind codes 1 and 2 for LSR and ASR are the spec's decision D3 (log entry 9); the calls with a
number are the model's choice (log entry 12). -/
def Obligations.OutputsDependOnTheirOwnInputs : Prop :=
  ∀ s s' t t' : State, s.call = s'.call → step s = .next t → step s' = .next t' →
    ((s.call = .decodeWord ∨ s.call = .tryDecodePsr) → s.word = s'.word → t.out = t'.out) ∧
    (s.call = .classify → s.opcode = s'.opcode → t.out = t'.out) ∧
    (∀ n, s.call = .classifyInt n → t.out = t'.out) ∧
    (∀ n, s.call = .shiftInt n → s.shAmount = s'.shAmount → s.shValue = s'.shValue → s.carryIn = s'.carryIn →
      t.out = t'.out) ∧
    (s.call = .shift → s.shKind = s'.shKind → s.shAmount = s'.shAmount → s.shValue = s'.shValue →
      (s.carryIn = s'.carryIn ∨ s.shAmount ≠ 0#32 ∨ s.shKind = 1#2 ∨ s.shKind = 2#2) → t.out = t'.out) ∧
    (s.call = .decodeOp2 → s.word = s'.word →
      (∃ d r r', t.out = .operand d r ∧ t'.out = .operand d r' ∧ d = decodeOp2 s.word) ∧
      (s.x = s'.x → s.carryIn = s'.carryIn → t.out = t'.out) ∧
      (s.word.getLsbD 25 = true → t.out = t'.out))

/-- The invariant every step keeps, and indeed establishes from any state, reachable or not: what was
handed out keeps the invariants of the data types (R25, R26, R27, R132), and it is the block's answer
to the inputs held (R8). A carry beside every resolved register operand, and the resolution as part of the
answer, rest on R138 and log entry 8; no carry beside an immediate rests on D9 (R132, log entry 7). -/
def Obligations.StepKeepsTheOutputInvariant : Prop :=
  ∀ s t : State, step s = .next t → t.out.ok = true ∧ t.Coherent

/-- The state after reset meets the invariant: its outputs are those of its inputs (R186). That the
inputs are zero is the model's choice (log entry 1). -/
def Obligations.ResetMeetsTheOutputInvariant : Prop :=
  State.reset.out.ok = true ∧ State.reset.Coherent

/-- A step runs the instruction its call's decoder reads from the port, the two calls without a
table row of their own answer their component's outputs, and a number inside its domain is answered as on
the port (the calls with a number are the model's choice, log entry 12). -/
def Obligations.StepRunsTheDecodedInstruction : Prop :=
  ∀ s : State,
    (∀ i, s.call = .decodeWord ∨ s.call = .decodeOp2 → decodeAt s.call s.word = .ok i → step s = exec i s) ∧
    (∀ i, s.call = .shift → decodeAt .shift (s.shKind.setWidth 32) = .ok i → step s = exec i s) ∧
    (s.call = .tryDecodePsr → step s = .next { s with out := .psr (tryDecodePsr s.word) }) ∧
    (s.call = .classify → step s = .next { s with
      out := .classified (classify s.opcode) (familyOf (classify s.opcode)) }) ∧
    (∀ o : BitVec 4, s.call = .classifyInt o.toNat → step s = .next { s with
      out := .classified (classify o) (familyOf (classify o)) }) ∧
    (∀ c : BitVec 2, s.call = .shiftInt c.toNat → step s = .next { s with
      out := .shifted (shift (kindOf c) s.shAmount s.shValue s.carryIn) })

/-- Bits presented as a table row run as the next step, and presenting them changes the call and the one
port only: a kind code the kind port and not the word, a word the word and not the kind port (the choice
of the component is the model's, log entry 4). -/
def Obligations.PresentedTableRowRunsNext : Prop :=
  ∀ (s : State) (nbits w : Nat) (i : Instr), decodeTableWord nbits w = some i →
    step (s.withFetchWord nbits w) = exec i (s.withFetchWord nbits w) ∧
    (s.withFetchWord nbits w).call = i.call ∧
    (nbits ≤ 8 → s.withFetchWord nbits w = { s with call := .shift, shKind := BitVec.ofNat 2 w }) ∧
    (8 < nbits → s.withFetchWord nbits w = { s with call := i.call, word := BitVec.ofNat 32 w }) ∧
    (nbits ≤ 8 → (s.withFetchWord nbits w).word = s.word) ∧
    (8 < nbits → (s.withFetchWord nbits w).shKind = s.shKind) ∧
    (s.withFetchWord nbits w).x = s.x ∧ (s.withFetchWord nbits w).carryIn = s.carryIn ∧
    (s.withFetchWord nbits w).shAmount = s.shAmount ∧ (s.withFetchWord nbits w).shValue = s.shValue ∧
    (s.withFetchWord nbits w).opcode = s.opcode ∧ (s.withFetchWord nbits w).out = s.out

/-- The PSR decoder comes first (R53, R121, R175): an ALU answer is handed out exactly for the words that
match no pattern, and for no PSR transfer. -/
def Obligations.AluAnswerOnlyWhenNoPsrPatternMatches : Prop :=
  ∀ s t : State, s.call = .decodeWord → step s = .next t →
    ((∃ k, t.out = .decoded (.psrTransfer k)) ↔
      (mrsPattern.accepts s.word = true ∨ msrPattern.accepts s.word = true ∨ msrFlgPattern.accepts s.word = true)) ∧
    ((∃ m f d, t.out = .decoded (.alu m f d)) ↔
      (mrsPattern.accepts s.word = false ∧ msrPattern.accepts s.word = false ∧ msrFlgPattern.accepts s.word = false))

/-- R103 whole: an opcode above 0xF gets no mnemonic, none of the sixteen by default, an opcode up to 0xF
gets its own, a step asked to classify one fails and hands nothing out, and the 4-bit port cannot present
one (the call with a number is the model's choice, log entry 12). -/
def Obligations.OpcodeAboveFifteenGetsNoMnemonic : Prop :=
  (∀ n : Nat, 0xF < n → classifyNat n = .error .opcodeOutOfRange) ∧
  (∀ n : Nat, n ≤ 0xF → ∃ m, classifyNat n = .ok m ∧ m.opcode.toNat = n) ∧
  (∀ (s : State) (n : Nat), s.call = .classifyInt n → 0xF < n → step s = .fault .opcodeOutOfRange) ∧
  (∀ s : State, s.opcode.toNat ≤ 0xF)

/-- A shift kind outside the four gets no result: a step asked for one fails, bits given as a kind row fail
in the next step and decode to no instruction, and the 2-bit port cannot present one (R88, R171; the
codes of the four are the spec's decision D3, the call with a number is the model's choice, log entry 12). -/
def Obligations.ShiftKindAboveThreeGetsNoResult : Prop :=
  (∀ (n : Nat) (a v : Word) (c : Bool), 3 < n → shiftNat n a v c = .error .shiftKindOutOfRange) ∧
  (∀ (k : ShiftKind) (a v : Word) (c : Bool), shiftNat k.code.toNat a v c = .ok (shift k a v c)) ∧
  (∀ (s : State) (n : Nat), s.call = .shiftInt n → 3 < n → step s = .fault .shiftKindOutOfRange) ∧
  (∀ (s : State) (nbits w : Nat), nbits ≤ 8 → 3 < w →
    decodeTableWord nbits w = none ∧ step (s.withFetchWord nbits w) = .fault .shiftKindOutOfRange) ∧
  (∀ s : State, ∃ k : ShiftKind, s.shKind = k.code)

/-! ## Ports and text -/

/-- The port signals of R11 carry a decoder's whole answer, and `psr_valid` is 1 exactly for a PSR
transfer (R150; the codes are the spec's decisions D3 and D5). -/
def Obligations.PortSignalsLoseNothing : Prop :=
  (∀ d d' : Op2, op2Ports d = op2Ports d' → d = d') ∧
  (∀ k k' : Option PsrOperationKind, psrPorts k = psrPorts k' → k = k') ∧
  (∀ m m' : Mnemonic, classifierPorts m = classifierPorts m' → m = m') ∧
  (∀ w : Word, (psrPorts (tryDecodePsr w)).psrValid = true ↔ ∃ k, tryDecodePsr w = some k)

/-- The codes of R11 on the ports, all of them at once and in every state (R8, R25, D25), read from the bits of
the inputs: `mnemonic` is the opcode number, `family` 1 for Arithmetic, `psr_kind` 0 Mrs, 1 Msr, 2 MsrFlg,
`op2_is_imm` the immediate flag, `shift_by_reg` bit 4, `shift_kind` and `sh_kind` 0 LSL, 1 LSR, 2 ASR, 3 ROR, and
every signal that does not belong to the form has no value. The codes are the spec's decisions D1, D3 and
D5. -/
def Obligations.PortsCarryTheListedCodes : Prop :=
  ∀ (s : State) (w : Word), w = s.word →
    (s.ports.op2.op2IsImm = w.getLsbD 25) ∧
    (w.getLsbD 25 = true → s.ports.op2 =
      ⟨true, some (w.extractLsb' 0 8), some (w.extractLsb' 8 4 ++ 0#1), none, none, none, none, none⟩) ∧
    (w.getLsbD 25 = false → w.getLsbD 4 = false → s.ports.op2 =
      ⟨false, none, none, some (w.extractLsb' 0 4), some (w.extractLsb' 5 2), some false,
        some (w.extractLsb' 7 5), none⟩) ∧
    (w.getLsbD 25 = false → w.getLsbD 4 = true → s.ports.op2 =
      ⟨false, none, none, some (w.extractLsb' 0 4), some (w.extractLsb' 5 2), some true,
        none, some (w.extractLsb' 8 4)⟩) ∧
    (mrsPattern.accepts w = true → s.ports.psr = ⟨true, some 0#2, some (w.extractLsb' 12 4), none, none⟩) ∧
    (msrPattern.accepts w = true → s.ports.psr = ⟨true, some 1#2, none, some (w.extractLsb' 0 4), none⟩) ∧
    (msrFlgPattern.accepts w = true → s.ports.psr = ⟨true, some 2#2, none, none, some s.ports.op2⟩) ∧
    (mrsPattern.accepts w = false → msrPattern.accepts w = false → msrFlgPattern.accepts w = false →
      s.ports.psr = ⟨false, none, none, none, none⟩) ∧
    s.ports.classifier.mnemonic = s.opcode ∧
    (s.ports.classifier.family = 1#1 ↔
      (2 ≤ s.opcode.toNat ∧ s.opcode.toNat ≤ 7) ∨ s.opcode = 0xA#4 ∨ s.opcode = 0xB#4) ∧
    (s.shKind = 0#2 → s.ports.sh = shift .logicalLeft s.shAmount s.shValue s.carryIn) ∧
    (s.shKind = 1#2 → s.ports.sh = shift .logicalRight s.shAmount s.shValue s.carryIn) ∧
    (s.shKind = 2#2 → s.ports.sh = shift .arithmeticRight s.shAmount s.shValue s.carryIn) ∧
    (s.shKind = 3#2 → s.ports.sh = shift .rotateRight s.shAmount s.shValue s.carryIn)

/-- What an evaluation hands out is what the ports carry for its inputs (R8, R11, R193); while `psr_valid` is 1
the flow gives no ALU answer, and for an ALU answer the classifier port agrees if the caller presents the
word's opcode to it (D25, R121). -/
def Obligations.EvaluationsHandOutThePorts : Prop :=
  ∀ s t : State, step s = .next t →
    t.ports = s.ports ∧
    (∀ k, t.out = .psr k → s.ports.psr = psrPorts k) ∧
    (∀ m f, s.call = .classify → t.out = .classified m f → s.ports.classifier = ⟨m.opcode, familyCode f⟩) ∧
    (∀ d r, t.out = .operand d r → s.ports.op2 = op2Ports d) ∧
    (∀ r, s.call = .shift → t.out = .shifted r → s.ports.sh = r) ∧
    (∀ k, t.out = .decoded (.psrTransfer k) → s.ports.psr = psrPorts (some k)) ∧
    (∀ m f d, t.out = .decoded (.alu m f d) → s.ports.psr.psrValid = false ∧ s.ports.op2 = op2Ports d ∧
      (s.opcode = opcodeOf s.word → s.ports.classifier = ⟨m.opcode, familyCode f⟩))

/-- The text of a register operand, form by form, with the spec's examples (R70, R67, R69; D16 to D18). -/
def Obligations.RegisterOperandTextByForm : Prop :=
  (∀ rm : RegIndex,
    renderOp2 (.register (.immediate 0#5) .logicalLeft rm) = "R" ++ Nat.repr rm.toNat ∧
    renderOp2 (.register (.immediate 0#5) .rotateRight rm) = "R" ++ Nat.repr rm.toNat ++ ", RRX" ∧
    renderOp2 (.register (.immediate 0#5) .logicalRight rm) = "R" ++ Nat.repr rm.toNat ++ ", LSR #32" ∧
    renderOp2 (.register (.immediate 0#5) .arithmeticRight rm) = "R" ++ Nat.repr rm.toNat ++ ", ASR #32") ∧
  (∀ (n : BitVec 5) (k : ShiftKind) (rm : RegIndex), n ≠ 0#5 →
    renderOp2 (.register (.immediate n) k rm) =
      "R" ++ Nat.repr rm.toNat ++ ", " ++ renderKind k ++ " #" ++ Nat.repr n.toNat) ∧
  (∀ (k : ShiftKind) (rs rm : RegIndex),
    renderOp2 (.register (.register rs) k rm) =
      "R" ++ Nat.repr rm.toNat ++ ", " ++ renderKind k ++ " " ++ ("R" ++ Nat.repr rs.toNat)) ∧
  renderOp2 (.register (.immediate 4#5) .logicalLeft 1#4) = "R1, LSL #4" ∧
  renderOp2 (.register (.register 4#4) .logicalRight 3#4) = "R3, LSR R4" ∧
  renderOp2 (.register (.register 0#4) .logicalLeft 3#4) = "R3, LSL R0"

/-- The text of an immediate operand is `#` and its rotated value in decimal (R71; the base is D16). -/
def Obligations.ImmediateTextIsTheRotatedValue : Prop :=
  (∀ (base : BitVec 8) (rotation : BitVec 5),
    renderOp2 (.immediate base rotation) =
      "#" ++ Nat.repr ((base.setWidth 32).rotateRight rotation.toNat).toNat) ∧
  renderOp2 (.immediate 0xFF#8 2#5) = "#3221225535"

/-- The names of the enumerants (R68, R69, R72) and the text of the PSR operations (R73; D18, D19), with a
selector the caller supplies. -/
def Obligations.NamesAndPsrTextAsListed : Prop :=
  [Mnemonic.and, .eor, .sub, .rsb, .add, .adc, .sbc, .rsc, .tst, .teq, .cmp, .cmn, .orr, .mov, .bic, .mvn].map renderMnemonic =
    ["AND", "EOR", "SUB", "RSB", "ADD", "ADC", "SBC", "RSC", "TST", "TEQ", "CMP", "CMN", "ORR", "MOV", "BIC", "MVN"] ∧
  [ShiftKind.logicalLeft, .logicalRight, .arithmeticRight, .rotateRight].map renderKind = ["LSL", "LSR", "ASR", "ROR"] ∧
  (renderSelector .cpsr = "CPSR" ∧ renderSelector .spsr = "SPSR") ∧
  (∀ (p : PsrSelector) (r : RegIndex) (d : Op2),
    renderPsr p (.mrs r) = "MRS " ++ renderReg r ++ ", " ++ renderSelector p ∧
    renderPsr p (.msr r) = "MSR " ++ renderSelector p ++ ", " ++ renderReg r ∧
    renderPsr p (.msrFlg d) = "MSR " ++ renderSelector p ++ "_flg, " ++ renderOp2 d)

/-- The text is a function of the decoded data and the caller's selector only (R66): two states that hand out
the same output and present the same word have the same text, and where the output holds no PSR operation
the word does not matter. The texts of a Family and of a bare ShiftOperator are free (log entry 16). -/
def Obligations.TextIsAFunctionOfTheDecodedData : Prop :=
  ∀ s t : State, s.out = t.out →
    (s.word = t.word → s.text = t.text) ∧
    ((∀ k, s.out ≠ .decoded (.psrTransfer k) ∧ s.out ≠ .psr (some k)) → s.text = t.text) ∧
    (∀ m f d, s.out = .decoded (.alu m f d) → s.text = [renderMnemonic m, renderFamily f, renderOp2 d]) ∧
    (∀ m f, s.out = .classified m f → s.text = [renderMnemonic m, renderFamily f])
end

