-- ==== Sys2Proof/Laws/Decode.lean ====
section
/-! SUPPORT. The small lemmas of the decoders and the encoder: what each bit of an encoded field is, and
that the code tables of R58 are inverse to each other. -/

namespace Sys2Proof

/-- Bit `i` of a placed field (R12). -/
theorem getLsbD_place {n : Nat} (v : BitVec n) (lo i : Nat) :
    (place v lo).getLsbD i = (decide (i < 32) && decide (lo ≤ i) && v.getLsbD (i - lo)) := by
  simp only [place, BitVec.getLsbD_shiftLeft, BitVec.getLsbD_setWidth]
  by_cases h1 : i < 32
  · by_cases h2 : lo ≤ i
    · simp [h1, h2, show i - lo < 32 by omega]
    · simp [h2, show i < lo by omega]
  · simp [h1]

/-- R60: what matching and not matching a pattern mean. -/
theorem Pattern.accepts_iff (p : Pattern) (w : Word) : p.accepts w = true ↔ w &&& p.mask = p.value :=
  decide_eq_true_iff

theorem Pattern.accepts_eq_false_iff (p : Pattern) (w : Word) : p.accepts w = false ↔ w &&& p.mask ≠ p.value :=
  decide_eq_false_iff_not

@[simp] theorem kindOf_code (k : ShiftKind) : kindOf k.code = k := by cases k <;> decide

@[simp] theorem code_kindOf : ∀ c : BitVec 2, (kindOf c).code = c := by decide

/-- A doubled rotate count is even (R26). -/
@[simp] theorem getLsbD_doubled_zero (r : BitVec 4) : (doubled r).getLsbD 0 = false := by
  simp [doubled]

/-- Half of a doubled rotate count is the count: the decoder drops no bit of it. -/
theorem half_doubled : ∀ r : BitVec 4, (doubled r).extractLsb' 1 4 = r := by decide

/-- Doubling the upper four bits of an even rotation gives it back. -/
theorem doubled_half : ∀ s : BitVec 5, s.getLsbD 0 = false → doubled (s.extractLsb' 1 4) = s := by decide

/-- An encoded second operand sets bits of the operand field only (R130). -/
theorem encodeOp2_outside (d : Op2) (i : Nat) (h : 12 ≤ i) (h' : i ≠ 25) : (encodeOp2 d).getLsbD i = false := by
  by_cases hi : i < 32
  · rcases d with ⟨⟨n⟩ | ⟨rs⟩, k, rm⟩ | ⟨b, s⟩ <;>
      simp only [encodeOp2, BitVec.getLsbD_or, getLsbD_place] <;> interval_cases i <;> simp at h' ⊢
  · exact BitVec.getLsbD_of_ge _ _ (by omega)

end Sys2Proof
end

