-- ==== Sys2Proof/Laws/PerInstr.lean ====
section
/-! SUPPORT. Per instruction: the encoder's word lies in the instruction's row of
spec/opcode_table.json, that is, its masked bits are the row's match value. -/

namespace Sys2Proof.Laws.TableRow

/-- The encoding of `i` matches the mask and match of its table row. -/
def Statement (i : Instr) : Prop := i.row.accepts (encode i) = true

/-- A word is accepted when each of its 32 bits agrees with the row's match under the row's mask. -/
theorem accepts_of_bits {p : Pattern} {w : Word}
    (h : ∀ i < 32, (w.getLsbD i && p.mask.getLsbD i) = p.value.getLsbD i) : p.accepts w = true := by
  rw [Pattern.accepts, decide_eq_true_eq]
  exact BitVec.eq_of_getLsbD_eq fun i hi => by rw [BitVec.getLsbD_and, h i hi]

/-- An ALU word holds its opcode at bits 24:21 and nothing else of the row's mask. -/
theorem accepts_dp (m : Mnemonic) (d : Op2) :
    (Pattern.mk 0x01E00000#32 (place m.opcode 21)).accepts (encodeDp m d) = true := by
  refine accepts_of_bits fun i hi => ?_
  by_cases h : 12 ≤ i ∧ i ≠ 25
  · simp only [encodeDp, BitVec.getLsbD_or, encodeOp2_outside d i h.1 h.2, getLsbD_place]
    obtain ⟨h1, h2⟩ := h
    interval_cases i <;> simp at h2 ⊢
  · simp only [getLsbD_place]
    by_cases h25 : i = 25
    · subst h25; simp
    · have : i < 12 := by omega
      interval_cases i <;> simp

theorem mrs (rd : RegIndex) : Statement (.mrs rd) := by
  revert rd; unfold Statement; decide

theorem msr (rm : RegIndex) : Statement (.msr rm) := by
  revert rm; unfold Statement; decide

theorem msrFlg (operand : Op2) : Statement (.msrFlg operand) := by
  refine accepts_of_bits fun i hi => ?_
  by_cases h : 12 ≤ i ∧ i ≠ 25
  · simp only [encode, encodeMsrFlg, Instr.row, msrFlgPattern, BitVec.getLsbD_or,
      encodeOp2_outside operand i h.1 h.2, getLsbD_place]
    obtain ⟨h1, h2⟩ := h
    interval_cases i <;> simp at h2 ⊢
  · by_cases h25 : i = 25
    · subst h25; simp [Instr.row, msrFlgPattern]
    · have : i < 12 := by omega
      simp only [Instr.row, msrFlgPattern]
      interval_cases i <;> simp

theorem and (op2 : Op2) : Statement (.and op2) := accepts_dp .and op2

theorem eor (op2 : Op2) : Statement (.eor op2) := accepts_dp .eor op2

theorem sub (op2 : Op2) : Statement (.sub op2) := accepts_dp .sub op2

theorem rsb (op2 : Op2) : Statement (.rsb op2) := accepts_dp .rsb op2

theorem add (op2 : Op2) : Statement (.add op2) := accepts_dp .add op2

theorem adc (op2 : Op2) : Statement (.adc op2) := accepts_dp .adc op2

theorem sbc (op2 : Op2) : Statement (.sbc op2) := accepts_dp .sbc op2

theorem rsc (op2 : Op2) : Statement (.rsc op2) := accepts_dp .rsc op2

theorem tst (op2 : Op2) : Statement (.tst op2) := accepts_dp .tst op2

theorem teq (op2 : Op2) : Statement (.teq op2) := accepts_dp .teq op2

theorem cmp (op2 : Op2) : Statement (.cmp op2) := accepts_dp .cmp op2

theorem cmn (op2 : Op2) : Statement (.cmn op2) := accepts_dp .cmn op2

theorem orr (op2 : Op2) : Statement (.orr op2) := accepts_dp .orr op2

theorem mov (op2 : Op2) : Statement (.mov op2) := accepts_dp .mov op2

theorem bic (op2 : Op2) : Statement (.bic op2) := accepts_dp .bic op2

theorem mvn (op2 : Op2) : Statement (.mvn op2) := accepts_dp .mvn op2

theorem opImm (r : BitVec 4) (b : BitVec 8) : Statement (.opImm r b) := by
  refine accepts_of_bits fun i hi => ?_
  simp only [encode, Instr.row, encodeOp2, BitVec.getLsbD_or, getLsbD_place]
  interval_cases i <;> simp

theorem lslImm (n : BitVec 5) (rm : RegIndex) : Statement (.lslImm n rm) := by
  refine accepts_of_bits fun i hi => ?_
  simp only [encode, Instr.row, encodeOp2, ShiftKind.code, BitVec.getLsbD_or, getLsbD_place]
  interval_cases i <;> simp

theorem lsrImm (n : BitVec 5) (rm : RegIndex) : Statement (.lsrImm n rm) := by
  refine accepts_of_bits fun i hi => ?_
  simp only [encode, Instr.row, encodeOp2, ShiftKind.code, BitVec.getLsbD_or, getLsbD_place]
  interval_cases i <;> simp

theorem asrImm (n : BitVec 5) (rm : RegIndex) : Statement (.asrImm n rm) := by
  refine accepts_of_bits fun i hi => ?_
  simp only [encode, Instr.row, encodeOp2, ShiftKind.code, BitVec.getLsbD_or, getLsbD_place]
  interval_cases i <;> simp

theorem rorImm (n : BitVec 5) (rm : RegIndex) : Statement (.rorImm n rm) := by
  refine accepts_of_bits fun i hi => ?_
  simp only [encode, Instr.row, encodeOp2, ShiftKind.code, BitVec.getLsbD_or, getLsbD_place]
  interval_cases i <;> simp

theorem rrx (rm : RegIndex) : Statement (.rrx rm) := by
  revert rm; unfold Statement; decide

theorem lslReg (rs : RegIndex) (rm : RegIndex) : Statement (.lslReg rs rm) := by
  refine accepts_of_bits fun i hi => ?_
  simp only [encode, Instr.row, encodeOp2, ShiftKind.code, BitVec.getLsbD_or, getLsbD_place]
  interval_cases i <;> simp

theorem lsrReg (rs : RegIndex) (rm : RegIndex) : Statement (.lsrReg rs rm) := by
  refine accepts_of_bits fun i hi => ?_
  simp only [encode, Instr.row, encodeOp2, ShiftKind.code, BitVec.getLsbD_or, getLsbD_place]
  interval_cases i <;> simp

theorem asrReg (rs : RegIndex) (rm : RegIndex) : Statement (.asrReg rs rm) := by
  refine accepts_of_bits fun i hi => ?_
  simp only [encode, Instr.row, encodeOp2, ShiftKind.code, BitVec.getLsbD_or, getLsbD_place]
  interval_cases i <;> simp

theorem rorReg (rs : RegIndex) (rm : RegIndex) : Statement (.rorReg rs rm) := by
  refine accepts_of_bits fun i hi => ?_
  simp only [encode, Instr.row, encodeOp2, ShiftKind.code, BitVec.getLsbD_or, getLsbD_place]
  interval_cases i <;> simp

theorem lsl : Statement .lsl := by
  unfold Statement; decide

theorem lsr : Statement .lsr := by
  unfold Statement; decide

theorem asr : Statement .asr := by
  unfold Statement; decide

theorem ror : Statement .ror := by
  unfold Statement; decide

end Sys2Proof.Laws.TableRow
end

