-- ==== Sys2Proof/Laws/Shift.lean ====
section
/-! SUPPORT. The Shift Engine by regime (spec/40_shift_engine.md rule R90): one lemma per branch of each
operation, and the record's own lemmas, so that no later proof unfolds an operation. -/

namespace Sys2Proof.Machine

@[simp] theorem rawShift_result (r : Word) (c : Bool) : (rawShift r c).result = r := rfl
@[simp] theorem rawShift_carryOut (r : Word) (c : Bool) : (rawShift r c).carryOut = c := rfl
@[simp] theorem rawShift_overflow (r : Word) (c : Bool) : (rawShift r c).overflow = false := rfl
@[simp] theorem rawShift_sign (r : Word) (c : Bool) : (rawShift r c).sign = false := rfl
@[simp] theorem rawShift_zero (r : Word) (c : Bool) : (rawShift r c).zero = false := rfl

theorem operandOf_rawShift (r : Word) (c : Bool) : operandOf (rawShift r c) = ⟨r, some c⟩ := rfl

/-- A word is not 0 exactly when its number is at least 1. -/
theorem ne_zero_of_pos {a : Word} (h : 1 ≤ a.toNat) : a ≠ 0#32 := by
  rintro rfl; simp at h

theorem shiftLSL_zero (v : Word) (c : Bool) : shiftLSL 0#32 v c = rawShift v c := by simp [shiftLSL]

theorem shiftLSL_mid {a : Word} (v : Word) (c : Bool) (h : 1 ≤ a.toNat) (h' : a.toNat ≤ 32) :
    shiftLSL a v c = rawShift (lsl32 v a.toNat) (lastBitOutLeft v a.toNat) := by
  simp [shiftLSL, ne_zero_of_pos h, h']

theorem shiftLSL_above {a : Word} (v : Word) (c : Bool) (h : 33 ≤ a.toNat) :
    shiftLSL a v c = rawShift 0#32 false := by
  simp [shiftLSL, ne_zero_of_pos (by omega : 1 ≤ a.toNat), show ¬ a.toNat ≤ 32 by omega]

theorem shiftLSR_zero (v : Word) : shiftLSR 0#32 v = rawShift 0#32 (signBit v) := by simp [shiftLSR]

theorem shiftLSR_mid {a : Word} (v : Word) (h : 1 ≤ a.toNat) (h' : a.toNat ≤ 32) :
    shiftLSR a v = rawShift (lsr32 v a.toNat) (lastBitOutRight v a.toNat) := by
  simp [shiftLSR, ne_zero_of_pos h, h']

theorem shiftLSR_above {a : Word} (v : Word) (h : 33 ≤ a.toNat) : shiftLSR a v = rawShift 0#32 false := by
  simp [shiftLSR, ne_zero_of_pos (by omega : 1 ≤ a.toNat), show ¬ a.toNat ≤ 32 by omega]

theorem shiftASR_mid {a : Word} (v : Word) (h : 1 ≤ a.toNat) (h' : a.toNat ≤ 31) :
    shiftASR a v = rawShift (asr32 v a.toNat) (lastBitOutRight v a.toNat) := by
  simp [shiftASR, h, h']

theorem shiftASR_outside {a : Word} (v : Word) (h : a.toNat = 0 ∨ 32 ≤ a.toNat) :
    shiftASR a v = rawShift (replicate32 (signBit v)) (signBit v) := by
  simp only [shiftASR]; rw [if_neg]; omega

theorem shiftROR_multiple {a : Word} (v : Word) (h : a.toNat % 32 = 0) :
    shiftROR a v = rawShift v (signBit v) := by
  simp [shiftROR, h]

theorem shiftROR_remainder {a : Word} (v : Word) (h : a.toNat % 32 ≠ 0) :
    shiftROR a v = rawShift (ror32 v (a.toNat % 32)) (lastBitOutRight v (a.toNat % 32)) := by
  simp [shiftROR, h]

theorem shiftRotate_zero (v : Word) (c : Bool) : shiftRotate 0#32 v c = shiftRRX v c := by simp [shiftRotate]

theorem shiftRotate_nonzero {a : Word} (v : Word) (c : Bool) (h : a ≠ 0#32) :
    shiftRotate a v c = shiftROR a v := by
  simp [shiftRotate, h]

/-- The engine dispatches on the kind and nothing else (R80). -/
theorem shift_logicalLeft (a v : Word) (c : Bool) : shift .logicalLeft a v c = shiftLSL a v c := rfl
theorem shift_logicalRight (a v : Word) (c : Bool) : shift .logicalRight a v c = shiftLSR a v := rfl
theorem shift_arithmeticRight (a v : Word) (c : Bool) : shift .arithmeticRight a v c = shiftASR a v := rfl
theorem shift_rotateRight (a v : Word) (c : Bool) : shift .rotateRight a v c = shiftRotate a v c := rfl

/-! The helpers of R13, bit by bit: the form in which the engine's laws are proved. -/

theorem getLsbD_lsl32 (a : Word) (n k : Nat) :
    (lsl32 a n).getLsbD k = (decide (k < 32) && decide (n ≤ k) && a.getLsbD (k - n)) := by
  rw [lsl32, BitVec.getLsbD_ofNat, Nat.testBit_mul_two_pow]
  simp [BitVec.getLsbD, Bool.and_assoc]

theorem getLsbD_lsr32 (a : Word) (n k : Nat) : (lsr32 a n).getLsbD k = a.getLsbD (k + n) := by
  rw [lsr32, BitVec.getLsbD_ofNat, Nat.testBit_div_two_pow]
  by_cases hk : k < 32
  · simp [BitVec.getLsbD, hk]
  · rw [BitVec.getLsbD_of_ge a (k + n) (by omega)]
    simp [hk]

theorem getLsbD_replicate32 (b : Bool) (k : Nat) :
    (replicate32 b).getLsbD k = (decide (k < 32) && b) := by
  cases b
  · simp [replicate32]
  · have h : (0xFFFFFFFF#32) = BitVec.allOnes 32 := by decide
    rw [replicate32, if_pos rfl, h, BitVec.getLsbD_allOnes, Bool.and_true]

/-! The helpers of R13 as Lean's own operations on words. -/

theorem lsl32_eq (a : Word) (n : Nat) : lsl32 a n = a <<< n := by
  apply BitVec.eq_of_getLsbD_eq
  intro i hi
  rw [getLsbD_lsl32, BitVec.getLsbD_shiftLeft]
  by_cases h : i < n
  · simp [h, hi]
  · simp [h, hi]; omega

theorem lsr32_eq (a : Word) (n : Nat) : lsr32 a n = a >>> n := by
  apply BitVec.eq_of_getLsbD_eq
  intro i _
  rw [getLsbD_lsr32, BitVec.getLsbD_ushiftRight, Nat.add_comm]

theorem asr32_eq (a : Word) (n : Nat) : asr32 a n = a.sshiftRight n := by
  rw [asr32, BitVec.sshiftRight, Int.shiftRight_eq_div_pow]; norm_cast

theorem rotateRight_zero (a : Word) : a.rotateRight 0 = a := by
  apply BitVec.eq_of_getLsbD_eq
  intro i hi
  simp [BitVec.rotateRight_def, hi]

theorem ror32_eq {n : Nat} (a : Word) (h : n < 32) : ror32 a n = a.rotateRight n := by
  unfold ror32
  split
  · subst n; exact (rotateRight_zero _).symm
  · rw [BitVec.rotateRight_def, Nat.mod_eq_of_lt h, lsl32_eq, lsr32_eq]

/-- All sign bits are an arithmetic shift by the whole width. -/
theorem replicate32_signBit (a : Word) : replicate32 (signBit a) = a.sshiftRight 32 := by
  apply BitVec.eq_of_getLsbD_eq
  intro i hi
  rw [getLsbD_replicate32, signBit]
  simp [BitVec.getElem_sshiftRight, hi, BitVec.msb_eq_getLsbD_last]

/-- A rotation by more than the width is a rotation by the remainder. -/
theorem rotateRight_mod (a : Word) (n : Nat) : a.rotateRight (n % 32) = a.rotateRight n := by
  simp [BitVec.rotateRight_def]

/-- The result of RRX is the carry above the upper 31 bits of the value (R85). -/
theorem shiftRRX_eq (v : Word) (c : Bool) :
    shiftRRX v c = rawShift (BitVec.ofBool c ++ v.extractLsb' 1 31) (v.getLsbD 0) := by
  have h : lsl32 ((BitVec.ofBool c).setWidth 32) 31 ||| lsr32 v 1 = BitVec.ofBool c ++ v.extractLsb' 1 31 := by
    apply BitVec.eq_of_getLsbD_eq
    intro i hi
    rw [BitVec.getLsbD_or, getLsbD_lsl32, getLsbD_lsr32,
      BitVec.getLsbD_append (x := BitVec.ofBool c) (y := v.extractLsb' 1 31) (i := i)]
    by_cases h : i < 31
    · simp [h, show ¬ 31 ≤ i by omega]; rw [Nat.add_comm]
    · have : i = 31 := by omega
      subst this; simp
  rw [shiftRRX, h]

end Sys2Proof.Machine
end

