-- ==== Sys2Proof/Laws/State.lean ====
section
/-! SUPPORT. One lemma per field and update of State, each true by rfl, so that no later proof unfolds a
record update. -/

namespace Sys2Proof.Machine

@[simp] theorem State.emit_call (s : State) (o : Output) : (s.emit o).call = s.call := rfl
@[simp] theorem State.emit_word (s : State) (o : Output) : (s.emit o).word = s.word := rfl
@[simp] theorem State.emit_opcode (s : State) (o : Output) : (s.emit o).opcode = s.opcode := rfl
@[simp] theorem State.emit_shKind (s : State) (o : Output) : (s.emit o).shKind = s.shKind := rfl
@[simp] theorem State.emit_shAmount (s : State) (o : Output) : (s.emit o).shAmount = s.shAmount := rfl
@[simp] theorem State.emit_shValue (s : State) (o : Output) : (s.emit o).shValue = s.shValue := rfl
@[simp] theorem State.emit_carryIn (s : State) (o : Output) : (s.emit o).carryIn = s.carryIn := rfl
@[simp] theorem State.emit_x (s : State) (o : Output) : (s.emit o).x = s.x := rfl
@[simp] theorem State.emit_out (s : State) (o : Output) : (s.emit o).out = o := rfl

@[simp] theorem State.presentWord_call (s : State) (c : Call) (w : Word) : (s.presentWord c w).call = c := rfl
@[simp] theorem State.presentWord_word (s : State) (c : Call) (w : Word) : (s.presentWord c w).word = w := rfl
@[simp] theorem State.presentWord_opcode (s : State) (c : Call) (w : Word) : (s.presentWord c w).opcode = s.opcode := rfl
@[simp] theorem State.presentWord_shKind (s : State) (c : Call) (w : Word) : (s.presentWord c w).shKind = s.shKind := rfl
@[simp] theorem State.presentWord_shAmount (s : State) (c : Call) (w : Word) : (s.presentWord c w).shAmount = s.shAmount := rfl
@[simp] theorem State.presentWord_shValue (s : State) (c : Call) (w : Word) : (s.presentWord c w).shValue = s.shValue := rfl
@[simp] theorem State.presentWord_carryIn (s : State) (c : Call) (w : Word) : (s.presentWord c w).carryIn = s.carryIn := rfl
@[simp] theorem State.presentWord_x (s : State) (c : Call) (w : Word) : (s.presentWord c w).x = s.x := rfl
@[simp] theorem State.presentWord_out (s : State) (c : Call) (w : Word) : (s.presentWord c w).out = s.out := rfl

@[simp] theorem State.presentOpcode_call (s : State) (o : BitVec 4) : (s.presentOpcode o).call = .classify := rfl
@[simp] theorem State.presentOpcode_word (s : State) (o : BitVec 4) : (s.presentOpcode o).word = s.word := rfl
@[simp] theorem State.presentOpcode_opcode (s : State) (o : BitVec 4) : (s.presentOpcode o).opcode = o := rfl
@[simp] theorem State.presentOpcode_shKind (s : State) (o : BitVec 4) : (s.presentOpcode o).shKind = s.shKind := rfl
@[simp] theorem State.presentOpcode_shAmount (s : State) (o : BitVec 4) : (s.presentOpcode o).shAmount = s.shAmount := rfl
@[simp] theorem State.presentOpcode_shValue (s : State) (o : BitVec 4) : (s.presentOpcode o).shValue = s.shValue := rfl
@[simp] theorem State.presentOpcode_carryIn (s : State) (o : BitVec 4) : (s.presentOpcode o).carryIn = s.carryIn := rfl
@[simp] theorem State.presentOpcode_x (s : State) (o : BitVec 4) : (s.presentOpcode o).x = s.x := rfl
@[simp] theorem State.presentOpcode_out (s : State) (o : BitVec 4) : (s.presentOpcode o).out = s.out := rfl

@[simp] theorem State.presentShift_call (s : State) (k : BitVec 2) (a v : Word) : (s.presentShift k a v).call = .shift := rfl
@[simp] theorem State.presentShift_word (s : State) (k : BitVec 2) (a v : Word) : (s.presentShift k a v).word = s.word := rfl
@[simp] theorem State.presentShift_opcode (s : State) (k : BitVec 2) (a v : Word) : (s.presentShift k a v).opcode = s.opcode := rfl
@[simp] theorem State.presentShift_shKind (s : State) (k : BitVec 2) (a v : Word) : (s.presentShift k a v).shKind = k := rfl
@[simp] theorem State.presentShift_shAmount (s : State) (k : BitVec 2) (a v : Word) : (s.presentShift k a v).shAmount = a := rfl
@[simp] theorem State.presentShift_shValue (s : State) (k : BitVec 2) (a v : Word) : (s.presentShift k a v).shValue = v := rfl
@[simp] theorem State.presentShift_carryIn (s : State) (k : BitVec 2) (a v : Word) : (s.presentShift k a v).carryIn = s.carryIn := rfl
@[simp] theorem State.presentShift_x (s : State) (k : BitVec 2) (a v : Word) : (s.presentShift k a v).x = s.x := rfl
@[simp] theorem State.presentShift_out (s : State) (k : BitVec 2) (a v : Word) : (s.presentShift k a v).out = s.out := rfl

@[simp] theorem State.presentCall_call (s : State) (c : Call) : (s.presentCall c).call = c := rfl
@[simp] theorem State.presentCall_word (s : State) (c : Call) : (s.presentCall c).word = s.word := rfl
@[simp] theorem State.presentCall_opcode (s : State) (c : Call) : (s.presentCall c).opcode = s.opcode := rfl
@[simp] theorem State.presentCall_shKind (s : State) (c : Call) : (s.presentCall c).shKind = s.shKind := rfl
@[simp] theorem State.presentCall_shAmount (s : State) (c : Call) : (s.presentCall c).shAmount = s.shAmount := rfl
@[simp] theorem State.presentCall_shValue (s : State) (c : Call) : (s.presentCall c).shValue = s.shValue := rfl
@[simp] theorem State.presentCall_carryIn (s : State) (c : Call) : (s.presentCall c).carryIn = s.carryIn := rfl
@[simp] theorem State.presentCall_x (s : State) (c : Call) : (s.presentCall c).x = s.x := rfl
@[simp] theorem State.presentCall_out (s : State) (c : Call) : (s.presentCall c).out = s.out := rfl

/-- A number that fits is presented as its word. -/
theorem State.presentWide_fits (s : State) (c : Call) {w : Nat} (h : w < 2 ^ 32) :
    s.presentWide c w = s.presentWord c (BitVec.ofNat 32 w) := if_pos h

/-- A number that does not fit changes nothing. -/
theorem State.presentWide_wide (s : State) (c : Call) {w : Nat} (h : 2 ^ 32 ≤ w) : s.presentWide c w = s :=
  if_neg (by omega)

@[simp] theorem State.callerSetsCarry_call (s : State) (c : Bool) : (s.callerSetsCarry c).call = s.call := rfl
@[simp] theorem State.callerSetsCarry_word (s : State) (c : Bool) : (s.callerSetsCarry c).word = s.word := rfl
@[simp] theorem State.callerSetsCarry_opcode (s : State) (c : Bool) : (s.callerSetsCarry c).opcode = s.opcode := rfl
@[simp] theorem State.callerSetsCarry_shKind (s : State) (c : Bool) : (s.callerSetsCarry c).shKind = s.shKind := rfl
@[simp] theorem State.callerSetsCarry_shAmount (s : State) (c : Bool) : (s.callerSetsCarry c).shAmount = s.shAmount := rfl
@[simp] theorem State.callerSetsCarry_shValue (s : State) (c : Bool) : (s.callerSetsCarry c).shValue = s.shValue := rfl
@[simp] theorem State.callerSetsCarry_carryIn (s : State) (c : Bool) : (s.callerSetsCarry c).carryIn = c := rfl
@[simp] theorem State.callerSetsCarry_x (s : State) (c : Bool) : (s.callerSetsCarry c).x = s.x := rfl
@[simp] theorem State.callerSetsCarry_out (s : State) (c : Bool) : (s.callerSetsCarry c).out = s.out := rfl

@[simp] theorem State.callerSetsReg_call (s : State) (i : RegIndex) (v : Word) : (s.callerSetsReg i v).call = s.call := rfl
@[simp] theorem State.callerSetsReg_word (s : State) (i : RegIndex) (v : Word) : (s.callerSetsReg i v).word = s.word := rfl
@[simp] theorem State.callerSetsReg_opcode (s : State) (i : RegIndex) (v : Word) : (s.callerSetsReg i v).opcode = s.opcode := rfl
@[simp] theorem State.callerSetsReg_shKind (s : State) (i : RegIndex) (v : Word) : (s.callerSetsReg i v).shKind = s.shKind := rfl
@[simp] theorem State.callerSetsReg_shAmount (s : State) (i : RegIndex) (v : Word) : (s.callerSetsReg i v).shAmount = s.shAmount := rfl
@[simp] theorem State.callerSetsReg_shValue (s : State) (i : RegIndex) (v : Word) : (s.callerSetsReg i v).shValue = s.shValue := rfl
@[simp] theorem State.callerSetsReg_carryIn (s : State) (i : RegIndex) (v : Word) : (s.callerSetsReg i v).carryIn = s.carryIn := rfl
@[simp] theorem State.callerSetsReg_x (s : State) (i : RegIndex) (v : Word) : (s.callerSetsReg i v).x = s.x.set i.toNat v := rfl
@[simp] theorem State.callerSetsReg_out (s : State) (i : RegIndex) (v : Word) : (s.callerSetsReg i v).out = s.out := rfl

/-- A second output replaces the first: nothing accumulates. -/
@[simp] theorem State.emit_emit (s : State) (o o' : Output) : (s.emit o).emit o' = s.emit o' := rfl

/-- Handing out the output a state already holds changes nothing. -/
theorem State.emit_self (s : State) : s.emit s.out = s := rfl

/-- The emitting helpers of the four families are `emit` at their own output. -/
theorem State.emitAlu_eq (s : State) (o : BitVec 4) (d : Op2) :
    s.emitAlu o d = s.emit (.decoded (aluAnswer o d)) := rfl

theorem State.emitPsr_eq (s : State) (k : PsrOperationKind) :
    s.emitPsr k = s.emit (.decoded (.psrTransfer k)) := rfl

theorem State.emitOperand_eq (s : State) (d : Op2) (r : Operand) :
    s.emitOperand d r = s.emit (.operand d r) := rfl

theorem State.emitShift_eq (s : State) (r : ShiftResult) : s.emitShift r = s.emit (.shifted r) := rfl

/-- The register file is read without change by every output. -/
@[simp] theorem State.readReg_emit (s : State) (o : Output) (i : RegIndex) :
    (s.emit o).readReg i = s.readReg i := rfl

/-- The caller reads back the register it wrote. -/
theorem State.readReg_callerSetsReg (s : State) (i : RegIndex) (v : Word) :
    (s.callerSetsReg i v).readReg i = v := by
  simp [State.readReg]

/-- Writing one of the caller's registers leaves the others alone. -/
theorem State.readReg_callerSetsReg_other (s : State) (i j : RegIndex) (v : Word) (h : i ≠ j) :
    (s.callerSetsReg i v).readReg j = s.readReg j := by
  have h' : i.toNat ≠ j.toNat := fun e => h (BitVec.eq_of_toNat_eq e)
  simp [State.readReg, h']

end Sys2Proof.Machine
end

