-- ==== Sys2Proof/Laws/Step.lean ====
section
/-! SUPPORT. What a step can do, said once: it hands out one output and does nothing else; and, per family,
which output. Later proofs cite these and unfold no meaning. -/

namespace Sys2Proof.Machine

theorem exec_emits (i : Instr) (s : State) : ∃ o, exec i s = .next (s.emit o) := by
  cases i <;> exact ⟨_, rfl⟩

/-- The number-argument classifier, inside its domain and outside it. -/
theorem runClassifyInt_inside (s : State) {n : Nat} (h : n ≤ 0xF) :
    s.runClassifyInt n = .next (s.emit (.classified (classify (BitVec.ofNat 4 n)) (familyOf (classify (BitVec.ofNat 4 n))))) := by
  simp [State.runClassifyInt, classifyNat, h]

theorem runClassifyInt_outside (s : State) {n : Nat} (h : 0xF < n) :
    s.runClassifyInt n = .fault .opcodeOutOfRange := by
  simp [State.runClassifyInt, classifyNat, show ¬ n ≤ 15 by omega]

/-- The number-argument Shift Engine, inside its domain and outside it. -/
theorem runShiftInt_inside (s : State) {n : Nat} (h : n ≤ 3) :
    s.runShiftInt n =
      .next (s.emit (.shifted (shift (kindOf (BitVec.ofNat 2 n)) s.shAmount s.shValue s.carryIn))) := by
  simp [State.runShiftInt, shiftNat, h]

theorem runShiftInt_outside (s : State) {n : Nat} (h : 3 < n) :
    s.runShiftInt n = .fault .shiftKindOutOfRange := by
  simp [State.runShiftInt, shiftNat, show ¬ n ≤ 3 by omega]

/-- The three outcomes of a step: one output, or one of the two invariant violations of R171, each with
its guard; never a refusal. -/
theorem step_cases (s : State) :
    (∃ o, step s = .next (s.emit o)) ∨
    (∃ n, s.call = .classifyInt n ∧ 0xF < n ∧ step s = .fault .opcodeOutOfRange) ∨
    (∃ n, s.call = .shiftInt n ∧ 3 < n ∧ step s = .fault .shiftKindOutOfRange) := by
  cases hc : s.call with
  | decodeWord => simp only [step, hc]; exact .inl (exec_emits _ _)
  | decodeOp2 => simp only [step, hc]; exact .inl (exec_emits _ _)
  | shift => simp only [step, hc]; exact .inl (exec_emits _ _)
  | tryDecodePsr => simp only [step, hc]; exact .inl ⟨_, rfl⟩
  | classify => simp only [step, hc]; exact .inl ⟨_, rfl⟩
  | classifyInt n =>
    simp only [step, hc]
    rcases Nat.lt_or_ge 0xF n with h | h
    · exact .inr (.inl ⟨n, rfl, h, runClassifyInt_outside s h⟩)
    · exact .inl ⟨_, runClassifyInt_inside s h⟩
  | shiftInt n =>
    simp only [step, hc]
    rcases Nat.lt_or_ge 3 n with h | h
    · exact .inr (.inr ⟨n, rfl, h, runShiftInt_outside s h⟩)
    · exact .inl ⟨_, runShiftInt_inside s h⟩

/-- A step that goes on has handed out one output and done nothing else. -/
theorem step_emits {s t : State} (h : step s = .next t) : ∃ o, t = s.emit o := by
  rcases step_cases s with ⟨o, e⟩ | ⟨_, _, _, e⟩ | ⟨_, _, _, e⟩ <;> rw [e] at h <;> cases h
  exact ⟨o, rfl⟩

/-- The three PSR rows (R151 to R153). -/
theorem exec_psrInstr (k : PsrOperationKind) (s : State) :
    exec (psrInstr k) s = .next (s.emit (.decoded (.psrTransfer k))) := by
  cases k <;> rfl

/-- The sixteen ALU rows (R104 to R119). -/
theorem exec_aluInstr (m : Mnemonic) (d : Op2) (s : State) :
    exec (aluInstr m d) s = .next (s.emit (.decoded (.alu m (familyOf m) d))) := by
  cases m <;> rfl

/-- The four kind rows (R80). -/
theorem exec_decodeKind (c : BitVec 2) (s : State) :
    exec (decodeKind c) s =
      .next (s.emit (.shifted (shift (kindOf c) s.shAmount s.shValue s.carryIn))) := by
  unfold decodeKind
  generalize kindOf c = k
  cases k <;> rfl

/-- The shift-by-register rows (R135, R138). -/
theorem exec_shiftRegInstr (k : ShiftKind) (rs rm : RegIndex) (s : State) :
    exec (shiftRegInstr k rs rm) s = .next (s.emit (.operand (.register (.register rs) k rm)
      (shiftedByReg .config k (s.readReg rs) (s.readReg rm) s.carryIn))) := by
  cases k <;> rfl

/-- The shift-by-constant rows, RRX among them (R134, R138). -/
theorem exec_shiftImmInstr (k : ShiftKind) (n : BitVec 5) (rm : RegIndex) (s : State) :
    exec (shiftImmInstr k n rm) s = .next (s.emit (.operand (.register (.immediate n) k rm)
      (shiftedByImm k n (s.readReg rm) s.carryIn))) := by
  cases k
  · rfl
  · rfl
  · rfl
  · simp only [shiftImmInstr]
    split
    · subst n
      rw [shiftedByImm, shift_rotateRight, show (0#5).setWidth 32 = 0#32 from rfl, shiftRotate_zero]
      rfl
    · rfl

end Sys2Proof.Machine
end

