-- ==== Sys2Proof/Tests/Slice0.lean ====
section
/-! SUPPORT. Tests of the model, each a named theorem by decide. The expected values are the spec's own
vectors (spec/95_test_vectors.md; the name of the vector stands at the theorem), none the model's. After
them, the witnesses: for every obligation with hypotheses, concrete states and operands that meet them. -/

namespace Sys2Proof.Tests

open Sys2Proof Sys2Proof.Machine

/-- What a step handed out, if it went on. -/
def outAfter (o : Host.Outcome State Fault Refusal) : Option Output :=
  match o with
  | .next t => some t.out
  | .fault _ => none
  | .refused _ => none

/-- The fault a step stopped with, if it stopped with one. -/
def faultOf (o : Host.Outcome State Fault Refusal) : Option Fault :=
  match o with
  | .next _ => none
  | .fault f => some f
  | .refused _ => none

/-- A word through the flow of R53, from reset. -/
def runWord (w : Word) : Option Output := outAfter (step (State.reset.presentWord .decodeWord w))

/-- A word through the Second-Operand Decoder and its resolution, with one of the caller's registers set. -/
def runOp2 (w : Word) (i : RegIndex) (v : Word) (c : Bool) : Option Output :=
  outAfter (step (((State.reset.callerSetsReg i v).callerSetsCarry c).presentWord .decodeOp2 w))

/-- The Shift Engine on its ports. -/
def runShift (kind : BitVec 2) (amount value : Word) (c : Bool) : Option Output :=
  outAfter (step ((State.reset.callerSetsCarry c).presentShift kind amount value))

/-- The registers of program P3. -/
def p3 : Vector Word 16 := #v[0x80000001, 0, 32, 33, 64, 256, 511, 0, 0, 0, 0, 0, 0, 0, 0, 0]

/-! ## WellFormed refuses an ill-formed term for each check -/

theorem test_wf_odd_rotation_refused : (Op2.immediate 0xFF#8 3#5).wf = false := by decide

/-- R26: `shift` is never odd. -/
theorem test_wf_odd_rotation_31_refused : (Op2.immediate 0x00#8 31#5).wf = false := by decide

theorem test_wf_msrFlg_odd_rotation_refused : (Instr.msrFlg (.immediate 0xFF#8 1#5)).wf = false := by decide

/-- Each of the sixteen ALU rows checks its operand. -/
theorem test_wf_alu_odd_rotation_refused :
    [Mnemonic.and, .eor, .sub, .rsb, .add, .adc, .sbc, .rsc, .tst, .teq, .cmp, .cmn, .orr, .mov, .bic, .mvn].all
      (fun m => !(aluInstr m (.immediate 0x01#8 29#5)).wf) = true := by decide

theorem test_wf_psr_kind_odd_rotation_refused : (PsrOperationKind.msrFlg (.immediate 0xFF#8 1#5)).wf = false ∧
    (Decoded.psrTransfer (.msrFlg (.immediate 0xFF#8 1#5))).wf = false ∧
    (Decoded.alu .mov .logical (.immediate 0xFF#8 1#5)).wf = false := by decide

/-- R141: a ROR constant of 0 is the RRX row. -/
theorem test_wf_ror_constant_zero_refused : (Instr.rorImm 0#5 5#4).wf = false := by decide

/-! ## Decoding: a word of the spec for every constructor (V-PSR, P5, V-OP2, V-TOP) -/

theorem test_decode_mrs : decodeWord 0xE14F3000#32 = .mrs 3#4 := by decide

theorem test_decode_msr : decodeWord 0xE129F005#32 = .msr 5#4 := by decide

theorem test_decode_msrFlg : decodeWord 0xE328F20F#32 = .msrFlg (.immediate 0x0F#8 4#5) := by decide

theorem test_decode_and : decodeWord 0xE0012003#32 = .and (.register (.immediate 0#5) .logicalLeft 3#4) := by decide

theorem test_decode_eor : decodeWord 0xE0212003#32 = .eor (.register (.immediate 0#5) .logicalLeft 3#4) := by decide

theorem test_decode_sub : decodeWord 0xE0412003#32 = .sub (.register (.immediate 0#5) .logicalLeft 3#4) := by decide

theorem test_decode_rsb : decodeWord 0xE0612003#32 = .rsb (.register (.immediate 0#5) .logicalLeft 3#4) := by decide

theorem test_decode_add : decodeWord 0xE0812003#32 = .add (.register (.immediate 0#5) .logicalLeft 3#4) := by decide

theorem test_decode_adc : decodeWord 0xE0A12003#32 = .adc (.register (.immediate 0#5) .logicalLeft 3#4) := by decide

theorem test_decode_sbc : decodeWord 0xE0C12003#32 = .sbc (.register (.immediate 0#5) .logicalLeft 3#4) := by decide

theorem test_decode_rsc : decodeWord 0xE0E12003#32 = .rsc (.register (.immediate 0#5) .logicalLeft 3#4) := by decide

theorem test_decode_tst : decodeWord 0xE1110002#32 = .tst (.register (.immediate 0#5) .logicalLeft 2#4) := by decide

theorem test_decode_teq : decodeWord 0xE1310002#32 = .teq (.register (.immediate 0#5) .logicalLeft 2#4) := by decide

theorem test_decode_cmp : decodeWord 0xE1510002#32 = .cmp (.register (.immediate 0#5) .logicalLeft 2#4) := by decide

theorem test_decode_cmn : decodeWord 0xE1710002#32 = .cmn (.register (.immediate 0#5) .logicalLeft 2#4) := by decide

theorem test_decode_orr : decodeWord 0xE1812003#32 = .orr (.register (.immediate 0#5) .logicalLeft 3#4) := by decide

theorem test_decode_mov : decodeWord 0xE1A00201#32 = .mov (.register (.immediate 4#5) .logicalLeft 1#4) := by decide

theorem test_decode_bic : decodeWord 0xE1C12003#32 = .bic (.register (.immediate 0#5) .logicalLeft 3#4) := by decide

theorem test_decode_mvn : decodeWord 0xE3E054FF#32 = .mvn (.immediate 0xFF#8 8#5) := by decide

theorem test_decode_opImm : decodeOperandForm 0xE3A00FFF#32 = .opImm 15#4 0xFF#8 := by decide

theorem test_decode_lslImm : decodeOperandForm 0xE1A00201#32 = .lslImm 4#5 1#4 := by decide

theorem test_decode_lsrImm : decodeOperandForm 0xE1B010A1#32 = .lsrImm 1#5 1#4 := by decide

theorem test_decode_asrImm : decodeOperandForm 0xE1A000C5#32 = .asrImm 1#5 5#4 := by decide

theorem test_decode_rorImm : decodeOperandForm 0xE1A00FE5#32 = .rorImm 31#5 5#4 := by decide

theorem test_decode_rrx : decodeOperandForm 0xE1A00065#32 = .rrx 5#4 := by decide

theorem test_decode_lslReg : decodeOperandForm 0xE12FFF1E#32 = .lslReg 15#4 14#4 := by decide

theorem test_decode_lsrReg : decodeOperandForm 0xE08024B3#32 = .lsrReg 4#4 3#4 := by decide

theorem test_decode_asrReg : decodeOperandForm 0xE1A08250#32 = .asrReg 2#4 0#4 := by decide

theorem test_decode_rorReg : decodeOperandForm 0xE1A08170#32 = .rorReg 1#4 0#4 := by decide

/-- R58. -/
theorem test_decode_kinds : decodeKind 0b00#2 = .lsl ∧ decodeKind 0b01#2 = .lsr ∧ decodeKind 0b10#2 = .asr ∧ decodeKind 0b11#2 = .ror := by decide

/-- R171. -/
theorem test_decode_kind_above_three_refused : decodeAt .shift 4#32 = .error .shiftKindOutOfRange := by decide

/-- V-PSR: the words that are near a PSR pattern and are none. -/
theorem test_not_psr :
    [0xE10F3001#32, 0xE11F3000#32, 0xE10E3000#32, 0xE30F3000#32, 0xE129F015#32, 0xE329F005#32, 0xE138F005#32,
      0xE128E005#32, 0xE1A00201#32, 0xE5912000#32, 0x00000000#32, 0xFFFFFFFF#32].all
      (fun w => tryDecodePsr w == none) = true := by decide

/-! ## The host's two questions, at a row of each kind -/

theorem test_table_mrs : decodeTableWord 32 0x010F0000 = some (.mrs 0#4) := by decide

theorem test_table_opImm : decodeTableWord 32 0x02000000 = some (.opImm 0#4 0#8) := by decide

theorem test_table_mvn : decodeTableWord 32 0x01E00000 = some (.mvn (.register (.immediate 0#5) .logicalLeft 0#4)) := by decide

/-- Log entry 4: the all-zero word goes to the Second-Operand Decoder; any bit it does not read makes it an ALU word. -/
theorem test_table_and_with_an_unread_bit : decodeTableWord 32 0xE0000000 = some (.and (.register (.immediate 0#5) .logicalLeft 0#4)) := by decide

theorem test_table_zero_is_an_operand_form : decodeTableWord 32 0x00000000 = some (.lslImm 0#5 0#4) := by decide

theorem test_table_kind : decodeTableWord 8 0x03 = some .ror := by decide

theorem test_table_kind_out_of_range : decodeTableWord 8 0x04 = none := by decide

/-- R171: no default. -/
theorem test_fetch_kind_above_three_fails : faultOf (step (State.reset.withFetchWord 8 4)) = some .shiftKindOutOfRange := by decide

theorem test_fetch_word_runs_first : outAfter (step (State.reset.withFetchWord 32 0xE3E054FF)) =
    some (.decoded (.alu .mvn .logical (.immediate 0xFF#8 8#5))) := by decide

/-! ## One step of every instruction -/

/-- P2, step 1. -/
theorem test_mrs : runWord 0xE10F3000#32 = some (.decoded (.psrTransfer (.mrs 3#4))) := by decide

/-- P2, step 4. -/
theorem test_msr : runWord 0xE169F003#32 = some (.decoded (.psrTransfer (.msr 3#4))) := by decide

/-- P2, step 3. -/
theorem test_msrFlg_register : runWord 0xE128F003#32 = some (.decoded (.psrTransfer (.msrFlg (.register (.immediate 0#5) .logicalLeft 3#4)))) := by decide

/-- P2, step 5. -/
theorem test_msrFlg_immediate : runWord 0xE328F20F#32 = some (.decoded (.psrTransfer (.msrFlg (.immediate 0x0F#8 4#5)))) := by decide

/-- P5, word 0. -/
theorem test_and : runWord 0xE0012003#32 =
    some (.decoded (.alu .and .logical (.register (.immediate 0#5) .logicalLeft 3#4))) := by decide

/-- P5, word 1. -/
theorem test_eor : runWord 0xE0212003#32 =
    some (.decoded (.alu .eor .logical (.register (.immediate 0#5) .logicalLeft 3#4))) := by decide

/-- P5, word 2. -/
theorem test_sub : runWord 0xE0412003#32 =
    some (.decoded (.alu .sub .arithmetic (.register (.immediate 0#5) .logicalLeft 3#4))) := by decide

/-- P5, word 3. -/
theorem test_rsb : runWord 0xE0612003#32 =
    some (.decoded (.alu .rsb .arithmetic (.register (.immediate 0#5) .logicalLeft 3#4))) := by decide

/-- P5, word 4. -/
theorem test_add : runWord 0xE0812003#32 =
    some (.decoded (.alu .add .arithmetic (.register (.immediate 0#5) .logicalLeft 3#4))) := by decide

/-- P5, word 5. -/
theorem test_adc : runWord 0xE0A12003#32 =
    some (.decoded (.alu .adc .arithmetic (.register (.immediate 0#5) .logicalLeft 3#4))) := by decide

/-- P5, word 6. -/
theorem test_sbc : runWord 0xE0C12003#32 =
    some (.decoded (.alu .sbc .arithmetic (.register (.immediate 0#5) .logicalLeft 3#4))) := by decide

/-- P5, word 7. -/
theorem test_rsc : runWord 0xE0E12003#32 =
    some (.decoded (.alu .rsc .arithmetic (.register (.immediate 0#5) .logicalLeft 3#4))) := by decide

/-- P5, word 8. -/
theorem test_tst : runWord 0xE1110002#32 =
    some (.decoded (.alu .tst .logical (.register (.immediate 0#5) .logicalLeft 2#4))) := by decide

/-- P5, word 9. -/
theorem test_teq : runWord 0xE1310002#32 =
    some (.decoded (.alu .teq .logical (.register (.immediate 0#5) .logicalLeft 2#4))) := by decide

/-- P5, word 10. -/
theorem test_cmp : runWord 0xE1510002#32 =
    some (.decoded (.alu .cmp .arithmetic (.register (.immediate 0#5) .logicalLeft 2#4))) := by decide

/-- P5, word 11. -/
theorem test_cmn : runWord 0xE1710002#32 =
    some (.decoded (.alu .cmn .arithmetic (.register (.immediate 0#5) .logicalLeft 2#4))) := by decide

/-- P5, word 12. -/
theorem test_orr : runWord 0xE1812003#32 =
    some (.decoded (.alu .orr .logical (.register (.immediate 0#5) .logicalLeft 3#4))) := by decide

/-- P5, word 13. -/
theorem test_mov : runWord 0xE1A00201#32 =
    some (.decoded (.alu .mov .logical (.register (.immediate 4#5) .logicalLeft 1#4))) := by decide

/-- P5, word 14. -/
theorem test_bic : runWord 0xE1C12003#32 =
    some (.decoded (.alu .bic .logical (.register (.immediate 0#5) .logicalLeft 3#4))) := by decide

/-- P5, word 15. -/
theorem test_mvn : runWord 0xE3E054FF#32 =
    some (.decoded (.alu .mvn .logical (.immediate 0xFF#8 8#5))) := by decide

/-- P2, step 7. -/
theorem test_tst_next_to_mrs : runWord 0xE10F3001#32 =
    some (.decoded (.alu .tst .logical (.register (.immediate 0#5) .logicalLeft 1#4))) := by decide

/-- P4, step 3: no carry. -/
theorem test_opImm : runOp2 0xE3E054FF#32 0#4 0x0#32 true =
    some (.operand (.immediate 0xFF#8 8#5) ⟨0xFF000000#32, none⟩) := by decide

/-- V-OP2: a count of 0 is no RRX. -/
theorem test_opImm_count_zero : runOp2 0xE3A000FF#32 0#4 0x0#32 true =
    some (.operand (.immediate 0xFF#8 0#5) ⟨0x000000FF#32, none⟩) := by decide

/-- P4, step 1. -/
theorem test_lslImm : runOp2 0xE1B00201#32 1#4 0x12345678#32 false =
    some (.operand (.register (.immediate 4#5) .logicalLeft 1#4) ⟨0x23456780#32, (some true)⟩) := by decide

/-- V-LSL, amount 0. -/
theorem test_lslImm_zero : runOp2 0xE1A00005#32 5#4 0x80000001#32 false =
    some (.operand (.register (.immediate 0#5) .logicalLeft 5#4) ⟨0x80000001#32, (some false)⟩) := by decide

/-- P1, step 1. -/
theorem test_lsrImm : runOp2 0xE1B010A1#32 1#4 0x00000003#32 false =
    some (.operand (.register (.immediate 1#5) .logicalRight 1#4) ⟨0x00000001#32, (some true)⟩) := by decide

/-- V-LSR, amount 0. -/
theorem test_lsrImm_zero : runOp2 0xE1A00020#32 0#4 0x12345678#32 true =
    some (.operand (.register (.immediate 0#5) .logicalRight 0#4) ⟨0x00000000#32, (some false)⟩) := by decide

/-- V-ASR, amount 1. -/
theorem test_asrImm : runOp2 0xE1A000C5#32 5#4 0x80000001#32 false =
    some (.operand (.register (.immediate 1#5) .arithmeticRight 5#4) ⟨0xC0000000#32, (some true)⟩) := by decide

/-- V-ASR, amount 0. -/
theorem test_asrImm_zero : runOp2 0xE1A00040#32 0#4 0x80000001#32 false =
    some (.operand (.register (.immediate 0#5) .arithmeticRight 0#4) ⟨0xFFFFFFFF#32, (some true)⟩) := by decide

/-- V-ROR, amount 31. -/
theorem test_rorImm : runOp2 0xE1A00FE5#32 5#4 0x12345678#32 false =
    some (.operand (.register (.immediate 31#5) .rotateRight 5#4) ⟨0x2468ACF0#32, (some false)⟩) := by decide

/-- P1, step 2. -/
theorem test_rrx : runOp2 0xE1A00060#32 0#4 0x80000000#32 true =
    some (.operand (.register (.immediate 0#5) .rotateRight 0#4) ⟨0xC0000000#32, (some false)⟩) := by decide

/-- P4, step 4. -/
theorem test_rrx_carry_out : runOp2 0xE1B06067#32 7#4 0x00000001#32 true =
    some (.operand (.register (.immediate 0#5) .rotateRight 7#4) ⟨0x80000000#32, (some true)⟩) := by decide

/-- The descriptor alone of an operand form: a register amount is resolved by open parameters. -/
def descriptorOf (o : Option Output) : Option Op2 :=
  match o with
  | some (.operand d _) => some d
  | some (.decoded _) => none
  | some (.psr _) => none
  | some (.classified _ _) => none
  | some (.shifted _) => none
  | none => none

/-- V-OP2. -/
theorem test_lslReg : descriptorOf (runOp2 0xE12FFF1E#32 0#4 0#32 false) =
    some (.register (.register 15#4) .logicalLeft 14#4) := by decide

/-- V-OP2. -/
theorem test_lsrReg : descriptorOf (runOp2 0xE0802433#32 0#4 0#32 false) =
    some (.register (.register 4#4) .logicalRight 3#4) := by decide

/-- P3, word 5. -/
theorem test_asrReg : descriptorOf (runOp2 0xE1A08250#32 0#4 0#32 false) =
    some (.register (.register 2#4) .arithmeticRight 0#4) := by decide

/-- V-OP2. -/
theorem test_rorReg : descriptorOf (runOp2 0xE1A08170#32 0#4 0#32 false) =
    some (.register (.register 1#4) .rotateRight 0#4) := by decide

/-- P3, word 9: both readings. -/
theorem test_lslReg_resolved : resolveOp2 .literal (decodeOp2 0xE1A08210#32) p3 false = ⟨0x00000000#32, some true⟩ ∧
    resolveOp2 .armLike (decodeOp2 0xE1A08210#32) p3 false = ⟨0x00000000#32, some true⟩ := by decide

/-- P3, word 11: the readings differ. -/
theorem test_lsrReg_resolved : resolveOp2 .literal (decodeOp2 0xE1A08530#32) p3 false = ⟨0x00000000#32, some false⟩ ∧
    resolveOp2 .armLike (decodeOp2 0xE1A08530#32) p3 false = ⟨0x80000001#32, some false⟩ := by decide

/-- P3, word 3: the readings differ. -/
theorem test_asrReg_resolved : resolveOp2 .literal (decodeOp2 0xE1A08150#32) p3 false = ⟨0xFFFFFFFF#32, some true⟩ ∧
    resolveOp2 .armLike (decodeOp2 0xE1A08150#32) p3 false = ⟨0x80000001#32, some false⟩ := by decide

/-- P3, word 4: the readings differ. -/
theorem test_rorReg_resolved : resolveOp2 .literal (decodeOp2 0xE1A08170#32) p3 false = ⟨0x40000000#32, some true⟩ ∧
    resolveOp2 .armLike (decodeOp2 0xE1A08170#32) p3 false = ⟨0x80000001#32, some false⟩ := by decide

/-- V-LSL. -/
theorem test_lsl : runShift 0b00#2 32#32 0x80000001#32 false =
    some (.shifted ⟨0x00000000#32, true, false, false, false⟩) := by decide

/-- V-LSL: not reduced modulo anything. -/
theorem test_lsl_above : runShift 0b00#2 256#32 0xFFFFFFFF#32 false =
    some (.shifted ⟨0x00000000#32, false, false, false, false⟩) := by decide

/-- V-LSR. -/
theorem test_lsr : runShift 0b01#2 31#32 0x80000001#32 false =
    some (.shifted ⟨0x00000001#32, false, false, false, false⟩) := by decide

/-- V-LSR. -/
theorem test_lsr_zero : runShift 0b01#2 0#32 0x80000001#32 false =
    some (.shifted ⟨0x00000000#32, true, false, false, false⟩) := by decide

/-- V-ASR: the carry is bit 30. -/
theorem test_asr : runShift 0b10#2 31#32 0x80000001#32 false =
    some (.shifted ⟨0xFFFFFFFF#32, false, false, false, false⟩) := by decide

/-- V-ASR: the carry is not forced to 0. -/
theorem test_asr_above : runShift 0b10#2 33#32 0x80000001#32 false =
    some (.shifted ⟨0xFFFFFFFF#32, true, false, false, false⟩) := by decide

/-- V-ROR: a multiple of 32 is no RRX. -/
theorem test_ror : runShift 0b11#2 64#32 0x00000001#32 true =
    some (.shifted ⟨0x00000001#32, false, false, false, false⟩) := by decide

/-- V-RRX. -/
theorem test_ror_zero : runShift 0b11#2 0#32 0x12345678#32 true =
    some (.shifted ⟨0x891A2B3C#32, false, false, false, false⟩) := by decide

/-! ## The other calls, the ports, the text -/

/-- S6. -/
theorem test_classify_call : outAfter (step (State.reset.presentOpcode 0x9#4)) = some (.classified .teq .logical) := by decide

/-- V-CLS, the refusal vector. -/
theorem test_classify_refuses_sixteen : classifyNat 0x10 = .error .opcodeOutOfRange ∧ classifyNat 0xF = .ok .mvn := by decide

/-- V-CLS, the refusal vector, as a step. -/
theorem test_classify_number : faultOf (step (State.reset.presentCall (.classifyInt 0x10))) = some .opcodeOutOfRange ∧
    outAfter (step (State.reset.presentCall (.classifyInt 0xF))) = some (.classified .mvn .logical) := by decide

/-- V-ROR, with the kind as a number. -/
theorem test_shift_number : outAfter (step (((State.reset.presentShift 0#2 4#32 0x12345678#32)).presentCall (.shiftInt 3))) =
    some (.shifted ⟨0x81234567#32, true, false, false, false⟩) := by decide

/-- V-PSR. -/
theorem test_psr_call : outAfter (step (State.reset.presentWord .tryDecodePsr 0xE168F003#32)) =
    some (.psr (some (.msrFlg (.register (.immediate 0#5) .logicalLeft 3#4)))) := by decide

/-- V-TOP: the word is an MRS and its opcode alone would be TST. -/
theorem test_ports_discard_the_classifier : ((State.reset.presentWord .decodeWord 0xE10F3000#32).presentOpcode 0x8#4).ports.psr.psrKind = some 0#2 ∧
    ((State.reset.presentWord .decodeWord 0xE10F3000#32).presentOpcode 0x8#4).ports.classifier.mnemonic = 0x8#4 := by decide

/-- V-OP2. -/
theorem test_text_immediate : renderOp2 (decodeOp2 0xE3A00102#32) = "#2147483648" := by decide

/-- S13. -/
theorem test_text_rrx : renderOp2 (decodeOp2 0xE1A00065#32) = "R5, RRX" := by decide

/-- P2, step 5. -/
theorem test_text_psr : renderPsr .cpsr (.msrFlg (.immediate 0x0F#8 4#5)) = "MSR CPSR_flg, #4026531840" := by decide

/-! ## Witnesses for the hypotheses of the obligations, clause by clause -/

theorem witness_DecodingAnEncodingGivesTheInstruction : (Instr.mvn (.immediate 0xFF#8 30#5)).wf = true ∧ (Instr.rorImm 31#5 15#4).wf = true ∧
    (Instr.rorImm 1#5 0#4).wf = true ∧ Instr.ror.wf = true := by decide

theorem witness_DecodedInstructionLiesInItsTableRow : decodeAt .decodeWord 0xE328F20F#32 = .ok (.msrFlg (.immediate 0x0F#8 4#5)) ∧
    decodeAt .decodeOp2 0xE1A00FE5#32 = .ok (.rorImm 31#5 5#4) ∧ decodeAt .shift 3#32 = .ok .ror := by decide

theorem witness_OnlyOperandBitsReachTheDescriptor : 0xFDFFF000#32 &&& 0x02000FFF#32 = 0#32 ∧
    (0xE0802433#32).getLsbD 25 = false ∧ (0xE0802433#32).getLsbD 4 = true := by decide

theorem witness_PsrDecoderIgnoresFreeBits : 0xF0400000#32 &&& 0x0FBFFFFF#32 = 0#32 ∧ 0xF0000000#32 &&& 0x0FFFFFFF#32 = 0#32 := by decide

theorem witness_RegisterFormFieldsAreReadRight : (0xE1A00005#32).getLsbD 25 = false ∧ (0xE1A00005#32).toNat / 2 ^ 5 % 4 = 0 ∧
    (0xE0802433#32).getLsbD 25 = false ∧ (0xE0802433#32).toNat / 2 ^ 5 % 4 = 1 ∧
    (0xE1A000C5#32).getLsbD 25 = false ∧ (0xE1A000C5#32).toNat / 2 ^ 5 % 4 = 2 ∧
    (0xE1A00FE5#32).getLsbD 25 = false ∧ (0xE1A00FE5#32).toNat / 2 ^ 5 % 4 = 3 := by decide

theorem witness_ImmediateFormFieldsAreReadRight : (0xE3A000FF#32).getLsbD 25 = true ∧
    decodeOp2 0xE3A000FF#32 = .immediate 0xFF#8 0#5 ∧ (0xE3A000FF#32).toNat / 2 ^ 8 % 16 = 0 ∧
    decodeOp2 0xFFFFFFFF#32 = .immediate 0xFF#8 30#5 ∧ (0xFFFFFFFF#32).toNat / 2 ^ 8 % 16 = 15 := by decide

theorem witness_PsrShapesExcludeEachOther : mrsPattern.accepts 0xE14F3000#32 = true ∧ msrPattern.accepts 0xE169F005#32 = true ∧
    msrFlgPattern.accepts 0xE368F20F#32 = true := by decide

theorem witness_PsrPriorityOrderIsUnobservable : ∃ a b c : Option PsrOperationKind,
    a = (if mrsPattern.accepts 0xE169F005#32 then some (.mrs ((0xE169F005#32).extractLsb' 12 4)) else none) ∧
    b = (if msrPattern.accepts 0xE169F005#32 then some (.msr ((0xE169F005#32).extractLsb' 0 4)) else none) ∧
    c = (if msrFlgPattern.accepts 0xE169F005#32 then some (.msrFlg (decodeOp2 0xE169F005#32)) else none) ∧
    b = some (.msr 5#4) := ⟨_, _, _, rfl, rfl, rfl, by decide⟩

theorem witness_PsrShapesSitOnTheComparisonOpcodes : (mrsPattern.accepts 0xE10F3000#32 = true ∧ (0xE10F3000#32).getLsbD 22 = false) ∧
    (mrsPattern.accepts 0xE14F3000#32 = true ∧ (0xE14F3000#32).getLsbD 22 = true) ∧
    (msrPattern.accepts 0xE129F005#32 = true ∧ (0xE129F005#32).getLsbD 22 = false) ∧
    (msrFlgPattern.accepts 0xE168F003#32 = true ∧ (0xE168F003#32).getLsbD 22 = true) := by decide

/-- A count of 0; the first clause has no hypothesis. -/
theorem witness_ImmediateOperandIsItsRotatedBase : ∃ rotateCount : BitVec 4, rotateCount = 0#4 := ⟨_, rfl⟩

theorem witness_ConstantShiftsResolveByTheirEncodings : ∃ v : Word,
    v = (State.reset.callerSetsReg 15#4 0x80000001#32).x[(15#4 : RegIndex).toNat] ∧ v = 0x80000001#32 ∧
    (1#5 : BitVec 5) ≠ 0#5 ∧ (31#5 : BitVec 5) ≠ 0#5 := ⟨_, rfl, by decide, by decide, by decide⟩

/-- One line for each regime, at its ends: bypass, no bypass, 1, 32, 33 and the largest amount. -/
theorem witness_RegisterShiftsResolveByRegime :
    (0#32 = ResolveParams.armLike.amountOfReg 0x00000100#32 ∧ ResolveParams.armLike.regZeroBypass = true) ∧
    (0#32 = ResolveParams.literal.amountOfReg 0#32 ∧ ResolveParams.literal.regZeroBypass = false) ∧
    (1#32 = ResolveParams.literal.amountOfReg 1#32 ∧ 1 ≤ (1#32).toNat ∧ (1#32).toNat ≤ 32) ∧
    (32#32 = ResolveParams.armLike.amountOfReg 0x120#32 ∧ 1 ≤ (32#32).toNat ∧ (32#32).toNat ≤ 32) ∧
    (33#32 = ResolveParams.literal.amountOfReg 33#32 ∧ 33 ≤ (33#32).toNat) ∧
    (0xFFFFFFFF#32 = ResolveParams.literal.amountOfReg 0xFFFFFFFF#32 ∧ 33 ≤ (0xFFFFFFFF#32).toNat) := by decide

/-- A state that presents an amount to the Shift Engine. -/
def presenting (a : Word) : State := State.reset.presentShift 0#2 a 0x80000001#32

/-- Each regime at its ends (R90). -/
theorem witness_LslFollowsItsRegimes :
    (∃ a, a = (presenting 0#32).shAmount.toNat ∧ a = 0) ∧
    (∃ a, a = (presenting 1#32).shAmount.toNat ∧ 1 ≤ a ∧ a ≤ 32) ∧
    (∃ a, a = (presenting 31#32).shAmount.toNat ∧ a = 31) ∧
    (∃ a, a = (presenting 32#32).shAmount.toNat ∧ a = 32 ∧ 1 ≤ a ∧ a ≤ 32) ∧
    (∃ a, a = (presenting 33#32).shAmount.toNat ∧ 33 ≤ a) ∧
    (∃ a, a = (presenting 0xFFFFFFFF#32).shAmount.toNat ∧ 33 ≤ a) :=
  ⟨⟨_, rfl, by decide⟩, ⟨_, rfl, by decide⟩, ⟨_, rfl, by decide⟩, ⟨_, rfl, by decide⟩, ⟨_, rfl, by decide⟩, ⟨_, rfl, by decide⟩⟩

/-- Each regime at its ends; at 32 the first two clauses agree. -/
theorem witness_LsrFollowsItsRegimes :
    (∃ a, a = (presenting 0#32).shAmount.toNat ∧ a = 0) ∧
    (∃ a, a = (presenting 32#32).shAmount.toNat ∧ a = 32 ∧ 1 ≤ a ∧ a ≤ 32) ∧
    (∃ a, a = (presenting 1#32).shAmount.toNat ∧ 1 ≤ a ∧ a ≤ 32) ∧
    (∃ a, a = (presenting 31#32).shAmount.toNat ∧ a = 31) ∧
    (∃ a, a = (presenting 33#32).shAmount.toNat ∧ 33 ≤ a) ∧
    (∃ a, a = (presenting 0xFFFFFFFF#32).shAmount.toNat ∧ 33 ≤ a) :=
  ⟨⟨_, rfl, by decide⟩, ⟨_, rfl, by decide⟩, ⟨_, rfl, by decide⟩, ⟨_, rfl, by decide⟩, ⟨_, rfl, by decide⟩, ⟨_, rfl, by decide⟩⟩

/-- Each regime at its ends. -/
theorem witness_AsrFollowsItsRegimes :
    (∃ a, a = (presenting 1#32).shAmount.toNat ∧ 1 ≤ a ∧ a ≤ 31) ∧
    (∃ a, a = (presenting 31#32).shAmount.toNat ∧ a = 31 ∧ 1 ≤ a ∧ a ≤ 31) ∧
    (∃ a, a = (presenting 0#32).shAmount.toNat ∧ a = 0) ∧
    (∃ a, a = (presenting 32#32).shAmount.toNat ∧ 32 ≤ a) ∧
    (∃ a, a = (presenting 0xFFFFFFFF#32).shAmount.toNat ∧ 32 ≤ a) :=
  ⟨⟨_, rfl, by decide⟩, ⟨_, rfl, by decide⟩, ⟨_, rfl, by decide⟩, ⟨_, rfl, by decide⟩, ⟨_, rfl, by decide⟩⟩

/-- Each regime at its ends. -/
theorem witness_RorFollowsItsRegimes :
    (∃ a, a = (presenting 1#32).shAmount.toNat ∧ a ≠ 0 ∧ a % 32 ≠ 0) ∧
    (∃ a, a = (presenting 31#32).shAmount.toNat ∧ a ≠ 0 ∧ a % 32 ≠ 0) ∧
    (∃ a, a = (presenting 32#32).shAmount.toNat ∧ a ≠ 0 ∧ a % 32 = 0) ∧
    (∃ a, a = (presenting 33#32).shAmount.toNat ∧ a ≠ 0 ∧ a % 32 ≠ 0) ∧
    (∃ a, a = (presenting 0xFFFFFFFF#32).shAmount.toNat ∧ a ≠ 0 ∧ a % 32 ≠ 0) :=
  ⟨⟨_, rfl, by decide⟩, ⟨_, rfl, by decide⟩, ⟨_, rfl, by decide⟩, ⟨_, rfl, by decide⟩, ⟨_, rfl, by decide⟩⟩

/-- The two clauses agree where the ranges of R81 and R82 meet, by the values of R90. -/
theorem test_regimes_meet :
    0x80000001#32 <<< 32 = 0#32 ∧ 0x80000001#32 >>> 32 = 0#32 ∧
    (0x80000001#32).getLsbD (32 - 32) = true ∧ (0x80000001#32).getLsbD (32 - 1) = true := by decide

theorem witness_RrxRotatesTheCarryIn : (presenting 0#32).shAmount = 0#32 := by decide

theorem witness_CarryInIsReadInTwoCasesOnly : ¬ (ShiftKind.rotateRight = .rotateRight ∧ 1#32 = 0#32) ∧
    ¬ (ShiftKind.rotateRight = .logicalLeft ∧ 0#32 = 0#32) := by decide

theorem witness_ShiftEngineLaws : ShiftKind.logicalRight ≠ .logicalLeft ∧ 33 ≤ (33#32).toNat ∧ (1 ≤ (1#32).toNat ∧ (33#32).toNat = (1#32).toNat + 32) ∧
    1 ≤ (0xFFFFFFFF#32).toNat ∧ (1 ≤ (31#32).toNat ∧ (31#32).toNat ≤ 31 ∧ (0x7FFFFFFF#32).getLsbD 31 = false) := by decide

theorem witness_ShiftHelpersMoveBitsAsDefined : (32 ≤ 32 ∧ 31 < 32) ∧ (31 ≤ 31 ∧ 31 < 32) ∧ (0 ≤ 32 ∧ 0 < 32) := by decide

theorem witness_LiteralAndArmReadingsAgreeFrom1To255 : ShiftKind.logicalRight ≠ .logicalLeft ∧ (1 ≤ (p3[2] : Word).toNat ∧ (p3[2] : Word).toNat ≤ 255) ∧ p3[1] = 0#32 ∧
    1 ≤ ((p3.set 9 255#32)[(9#4 : RegIndex).toNat]).toNat ∧ ((p3.set 9 255#32)[(9#4 : RegIndex).toNat]).toNat ≤ 255 := by decide

theorem witness_NoInstructionChangesAnInput : ∃ t, exec (.rrx 7#4) State.reset = .next t := ⟨_, rfl⟩

/-- The two states differ in the output of an earlier evaluation. -/
theorem witness_ReevaluationGivesTheSameOutputs :
    ∃ t t', State.reset.sameInputs (State.reset.emit (.psr none)) ∧ State.reset ≠ State.reset.emit (.psr none) ∧
      step State.reset = .next t ∧ step (State.reset.emit (.psr none)) = .next t' :=
  ⟨_, _, ⟨rfl, rfl, rfl, rfl, rfl, rfl, rfl, rfl⟩, by decide, rfl, rfl⟩

/-- Each side of the two limits. -/
theorem witness_OnlyInvariantViolationsStop : (State.reset.presentCall (.classifyInt 0x10)).Stops ∧ (State.reset.presentCall (.shiftInt 4)).Stops ∧
    ¬ State.reset.Stops ∧ ¬ (State.reset.presentCall (.classifyInt 0xF)).Stops := ⟨trivial, trivial, fun h => h, fun h => h⟩

theorem witness_StepAnswersByTheContracts :
    (∃ o, State.reset.answer = .ok o) ∧ (∃ o, (State.reset.presentCall (.shiftInt 3)).answer = .ok o) ∧
    (∃ f, (State.reset.presentCall (.shiftInt 4)).answer = .error f) ∧
    (∃ f, (State.reset.presentCall (.classifyInt 0x10)).answer = .error f) :=
  ⟨⟨_, rfl⟩, ⟨_, rfl⟩, ⟨_, rfl⟩, ⟨_, rfl⟩⟩

/-- One pair of states for each clause, with a difference the clause allows: another carry, another word,
another register. -/
theorem witness_OutputsDependOnTheirOwnInputs :
    (∃ s s' t t' : State, s.call = s'.call ∧ step s = .next t ∧ step s' = .next t' ∧
      s.call = .decodeWord ∧ s.word = s'.word ∧ s ≠ s') ∧
    (∃ s s' t t' : State, s.call = s'.call ∧ step s = .next t ∧ step s' = .next t' ∧
      s.call = .tryDecodePsr ∧ s.word = s'.word ∧ s ≠ s') ∧
    (∃ s s' t t' : State, s.call = s'.call ∧ step s = .next t ∧ step s' = .next t' ∧
      s.call = .classify ∧ s.opcode = s'.opcode ∧ s ≠ s') ∧
    (∃ s s' t t' : State, s.call = s'.call ∧ step s = .next t ∧ step s' = .next t' ∧
      s.call = .classifyInt 0xF ∧ s ≠ s') ∧
    (∃ s s' t t' : State, s.call = s'.call ∧ step s = .next t ∧ step s' = .next t' ∧
      s.call = .shiftInt 3 ∧ s.shAmount = s'.shAmount ∧ s.shValue = s'.shValue ∧ s.carryIn = s'.carryIn ∧ s ≠ s') ∧
    (∃ s s' t t' : State, s.call = s'.call ∧ step s = .next t ∧ step s' = .next t' ∧
      s.call = .shift ∧ s.shKind = s'.shKind ∧ s.shAmount = s'.shAmount ∧ s.shValue = s'.shValue ∧
      s.shAmount ≠ 0#32 ∧ s ≠ s') ∧
    (∃ s s' t t' : State, s.call = s'.call ∧ step s = .next t ∧ step s' = .next t' ∧
      s.call = .decodeOp2 ∧ s.word = s'.word ∧ s.word.getLsbD 25 = true ∧ s ≠ s') ∧
    (∃ s s' t t' : State, s.call = s'.call ∧ step s = .next t ∧ step s' = .next t' ∧
      s.call = .decodeOp2 ∧ s.word = s'.word ∧ s.x = s'.x ∧ s.carryIn = s'.carryIn ∧ s ≠ s') :=
  ⟨⟨State.reset, State.reset.callerSetsCarry true, _, _, rfl, rfl, rfl, rfl, rfl, by decide⟩,
    ⟨State.reset.presentWord .tryDecodePsr 5#32, (State.reset.presentWord .tryDecodePsr 5#32).callerSetsCarry true,
      _, _, rfl, rfl, rfl, rfl, rfl, by decide⟩,
    ⟨State.reset.presentOpcode 9#4, (State.reset.presentOpcode 9#4).callerSetsCarry true,
      _, _, rfl, rfl, rfl, rfl, rfl, by decide⟩,
    ⟨State.reset.presentCall (.classifyInt 0xF), (State.reset.presentCall (.classifyInt 0xF)).callerSetsCarry true,
      _, _, rfl, rfl, rfl, rfl, by decide⟩,
    ⟨State.reset.presentCall (.shiftInt 3), (State.reset.presentCall (.shiftInt 3)).callerSetsReg 0#4 1#32,
      _, _, rfl, rfl, rfl, rfl, rfl, rfl, rfl, by decide⟩,
    ⟨presenting 1#32, (presenting 1#32).callerSetsCarry true,
      _, _, rfl, rfl, rfl, rfl, rfl, rfl, rfl, by decide, by decide⟩,
    ⟨State.reset.presentWord .decodeOp2 0xE3A001FF#32,
      (State.reset.presentWord .decodeOp2 0xE3A001FF#32).callerSetsReg 1#4 7#32,
      _, _, rfl, rfl, rfl, rfl, rfl, by decide, by decide⟩,
    ⟨State.reset.presentWord .decodeOp2 0xE1A00065#32,
      (State.reset.presentWord .decodeOp2 0xE1A00065#32).presentShift 0#2 0#32 1#32 |>.presentWord .decodeOp2 0xE1A00065#32,
      _, _, rfl, rfl, rfl, rfl, rfl, rfl, rfl, by decide⟩⟩

/-- The start state is one that no run reaches: what it holds as output is not the answer to its inputs. -/
theorem witness_StepKeepsTheOutputInvariant : ∃ t,
    step (State.reset.emit (.shifted ⟨0#32, false, true, true, true⟩)) = .next t ∧
    (State.reset.emit (.shifted ⟨0#32, false, true, true, true⟩)).out.ok = false := ⟨_, rfl, by decide⟩

theorem witness_StepRunsTheDecodedInstruction :
    (∃ i, State.reset.call = .decodeWord ∧ decodeAt State.reset.call State.reset.word = .ok i) ∧
    (∃ i, (State.reset.presentWord .decodeOp2 0xE1A00065#32).call = .decodeOp2 ∧
      decodeAt .decodeOp2 (State.reset.presentWord .decodeOp2 0xE1A00065#32).word = .ok i) ∧
    (∃ i, (State.reset.presentShift 3#2 0#32 1#32).call = .shift ∧
      decodeAt .shift ((State.reset.presentShift 3#2 0#32 1#32).shKind.setWidth 32) = .ok i) ∧
    (State.reset.presentWord .tryDecodePsr 0#32).call = .tryDecodePsr ∧
    (State.reset.presentOpcode 0xF#4).call = .classify ∧
    (State.reset.presentCall (.classifyInt 0xF)).call = .classifyInt (0xF#4 : BitVec 4).toNat ∧
    (State.reset.presentCall (.shiftInt 3)).call = .shiftInt (3#2 : BitVec 2).toNat :=
  ⟨⟨_, rfl, rfl⟩, ⟨_, rfl, rfl⟩, ⟨_, rfl, rfl⟩, rfl, rfl, rfl, rfl⟩

theorem witness_PresentedTableRowRunsNext : decodeTableWord 2 3 = some .ror ∧ decodeTableWord 32 0x02000FFF = some (.opImm 15#4 0xFF#8) ∧
    decodeTableWord 32 0xFFFFFFFF = some (.mvn (.immediate 0xFF#8 30#5)) := by decide

theorem witness_AluAnswerOnlyWhenNoPsrPatternMatches :
    (∃ t, (State.reset.presentWord .decodeWord 0xE10F3000#32).call = .decodeWord ∧
      step (State.reset.presentWord .decodeWord 0xE10F3000#32) = .next t ∧ mrsPattern.accepts 0xE10F3000#32 = true) ∧
    (∃ t, (State.reset.presentWord .decodeWord 0xE10F3001#32).call = .decodeWord ∧
      step (State.reset.presentWord .decodeWord 0xE10F3001#32) = .next t ∧ mrsPattern.accepts 0xE10F3001#32 = false ∧
      msrPattern.accepts 0xE10F3001#32 = false ∧ msrFlgPattern.accepts 0xE10F3001#32 = false) :=
  ⟨⟨_, rfl, rfl, by decide⟩, ⟨_, rfl, rfl, by decide, by decide, by decide⟩⟩

theorem witness_OpcodeAboveFifteenGetsNoMnemonic : 0xF < 0x10 ∧ 0xF ≤ 0xF ∧ 0 ≤ 0xF ∧
    (State.reset.presentCall (.classifyInt 0x10)).call = .classifyInt 0x10 := by decide

theorem witness_ShiftKindAboveThreeGetsNoResult : 3 < 4 ∧ 8 ≤ 8 ∧ 2 ≤ 8 ∧ (State.reset.presentCall (.shiftInt 4)).call = .shiftInt 4 := by decide

/-- A word for each clause: the three operand forms, the three PSR shapes, a word of none; and the kinds. -/
theorem witness_PortsCarryTheListedCodes :
    (0xE3A001FF#32).getLsbD 25 = true ∧
    ((0xE1A00FE5#32).getLsbD 25 = false ∧ (0xE1A00FE5#32).getLsbD 4 = false) ∧
    ((0xE0802433#32).getLsbD 25 = false ∧ (0xE0802433#32).getLsbD 4 = true) ∧
    mrsPattern.accepts 0xE10F3000#32 = true ∧ msrPattern.accepts 0xE129F005#32 = true ∧
    msrFlgPattern.accepts 0xE328F20F#32 = true ∧
    (mrsPattern.accepts 0xE10F3001#32 = false ∧ msrPattern.accepts 0xE10F3001#32 = false ∧
      msrFlgPattern.accepts 0xE10F3001#32 = false) ∧
    (State.reset.presentShift 0#2 1#32 1#32).shKind = 0#2 ∧ (State.reset.presentShift 3#2 1#32 1#32).shKind = 3#2 :=
  by decide

/-- One step for each clause. -/
theorem witness_EvaluationsHandOutThePorts :
    (∃ t k, step (State.reset.presentWord .tryDecodePsr 0xE10F3000#32) = .next t ∧ t.out = .psr k) ∧
    (∃ t m f, step (State.reset.presentOpcode 0xB#4) = .next t ∧ t.out = .classified m f) ∧
    (∃ t d r, step (State.reset.presentWord .decodeOp2 0xE3A001FF#32) = .next t ∧ t.out = .operand d r) ∧
    (∃ t r, step (presenting 32#32) = .next t ∧ t.out = .shifted r) ∧
    (∃ t k, step (State.reset.presentWord .decodeWord 0xE10F3000#32) = .next t ∧ t.out = .decoded (.psrTransfer k)) ∧
    (∃ t m f d, step State.reset = .next t ∧ t.out = .decoded (.alu m f d) ∧
      State.reset.opcode = opcodeOf State.reset.word) :=
  ⟨⟨_, _, rfl, rfl⟩, ⟨_, _, _, rfl, rfl⟩, ⟨_, _, _, rfl, rfl⟩, ⟨_, _, rfl, rfl⟩, ⟨_, _, rfl, rfl⟩,
    ⟨_, _, _, _, rfl, rfl, rfl⟩⟩

theorem witness_TextIsAFunctionOfTheDecodedData :
    State.reset.out = (State.reset.presentWord .decodeWord 5#32).out ∧
    State.reset.word = (State.reset.presentOpcode 1#4).word ∧
    (∀ k, State.reset.out ≠ .decoded (.psrTransfer k) ∧ State.reset.out ≠ .psr (some k)) ∧
    (∃ m f d, State.reset.out = .decoded (.alu m f d)) ∧
    (∃ m f, (State.reset.emit (.classified .teq .logical)).out = .classified m f) :=
  ⟨rfl, rfl, fun _ => ⟨by simp [State.reset], by simp [State.reset]⟩, ⟨_, _, _, rfl⟩, ⟨_, _, rfl⟩⟩

theorem witness_PortSignalsLoseNothing :
    op2Ports (.immediate 0xFF#8 2#5) = op2Ports (decodeOp2 0xE3A001FF#32) ∧
    psrPorts (some (.mrs 3#4)) = psrPorts (tryDecodePsr 0xE10F3000#32) ∧
    classifierPorts .teq = classifierPorts (classify 0x9#4) := by decide

theorem witness_RegisterOperandTextByForm : (1#5 : BitVec 5) ≠ 0#5 ∧ (31#5 : BitVec 5) ≠ 0#5 := by decide

end Sys2Proof.Tests
end

section
/-! SUPPORT. The decoders by case: one equation per branch of `decodeOp2` and `tryDecodePsr`, what their
answers keep, and the code tables of R101 and R131 read as bits. -/

namespace Sys2Proof

/-! ## The Second-Operand Decoder (R130) -/

theorem decodeOp2_immediate {w : Word} (h25 : w.getLsbD 25 = true) :
    decodeOp2 w = .immediate (w.extractLsb' 0 8) (doubled (w.extractLsb' 8 4)) := by
  rw [decodeOp2, if_pos h25, decodeOp2Imm]

theorem decodeOp2_shiftByReg {w : Word} (h25 : w.getLsbD 25 = false) (h4 : w.getLsbD 4 = true) :
    decodeOp2 w = .register (.register (w.extractLsb' 8 4)) (kindOf (w.extractLsb' 5 2)) (w.extractLsb' 0 4) := by
  rw [decodeOp2, h25, if_neg Bool.false_ne_true, if_pos h4, decodeOp2RegReg]

theorem decodeOp2_shiftByImm {w : Word} (h25 : w.getLsbD 25 = false) (h4 : w.getLsbD 4 = false) :
    decodeOp2 w = .register (.immediate (w.extractLsb' 7 5)) (kindOf (w.extractLsb' 5 2)) (w.extractLsb' 0 4) := by
  rw [decodeOp2, h25, h4, if_neg Bool.false_ne_true, if_neg Bool.false_ne_true, decodeOp2RegImm]

/-- The same three forms as the rows of R141. -/
theorem decodeOperandForm_immediate {w : Word} (h25 : w.getLsbD 25 = true) :
    decodeOperandForm w = .opImm (w.extractLsb' 8 4) (w.extractLsb' 0 8) := by
  rw [decodeOperandForm, if_pos h25]

theorem decodeOperandForm_shiftByReg {w : Word} (h25 : w.getLsbD 25 = false) (h4 : w.getLsbD 4 = true) :
    decodeOperandForm w =
      shiftRegInstr (kindOf (w.extractLsb' 5 2)) (w.extractLsb' 8 4) (w.extractLsb' 0 4) := by
  rw [decodeOperandForm, h25, if_neg Bool.false_ne_true, if_pos h4]

theorem decodeOperandForm_shiftByImm {w : Word} (h25 : w.getLsbD 25 = false) (h4 : w.getLsbD 4 = false) :
    decodeOperandForm w =
      shiftImmInstr (kindOf (w.extractLsb' 5 2)) (w.extractLsb' 7 5) (w.extractLsb' 0 4) := by
  rw [decodeOperandForm, h25, h4, if_neg Bool.false_ne_true, if_neg Bool.false_ne_true]

/-- A descriptor whose rotation is a doubled count is well formed (R26). -/
theorem immediate_doubled_wf (base : BitVec 8) (r : BitVec 4) : (Op2.immediate base (doubled r)).wf = true := by
  rw [Op2.wf, getLsbD_doubled_zero, Bool.not_false]

/-- A decoded descriptor has an even rotation (R26, R131). -/
theorem decodeOp2_wf (w : Word) : (decodeOp2 w).wf = true := by
  cases h25 : w.getLsbD 25 with
  | true => rw [decodeOp2_immediate h25, immediate_doubled_wf]
  | false =>
    cases h4 : w.getLsbD 4 with
    | true => rw [decodeOp2_shiftByReg h25 h4]; rfl
    | false => rw [decodeOp2_shiftByImm h25 h4]; rfl

/-- A doubled count is the count with a 0 below it (R55). -/
theorem doubled_eq_append : ∀ r : BitVec 4, doubled r = r ++ 0#1 := by decide

/-! ## The PSR-Transfer Decoder (R150) -/

/-- Two patterns that ask for different values of a bit both fix accept no common word. -/
theorem Pattern.not_accepts_of_conflict {p q : Pattern} {w : Word} (hp : p.accepts w = true)
    (hne : p.value &&& q.mask ≠ q.value &&& p.mask) : q.accepts w = false := by
  rw [Pattern.accepts_iff] at hp
  rw [Pattern.accepts_eq_false_iff]
  intro hq
  exact hne (by rw [← hp, ← hq, BitVec.and_assoc, BitVec.and_assoc, BitVec.and_comm p.mask])

theorem mrs_not_accepts_of_msr {w : Word} (h : msrPattern.accepts w = true) : mrsPattern.accepts w = false :=
  Pattern.not_accepts_of_conflict h (by decide)

theorem mrs_not_accepts_of_msrFlg {w : Word} (h : msrFlgPattern.accepts w = true) :
    mrsPattern.accepts w = false :=
  Pattern.not_accepts_of_conflict h (by decide)

theorem msr_not_accepts_of_msrFlg {w : Word} (h : msrFlgPattern.accepts w = true) :
    msrPattern.accepts w = false :=
  Pattern.not_accepts_of_conflict h (by decide)

theorem tryDecodePsr_of_mrs {w : Word} (h : mrsPattern.accepts w = true) :
    tryDecodePsr w = some (.mrs (w.extractLsb' 12 4)) := by
  simp [tryDecodePsr, h]

theorem tryDecodePsr_of_msr {w : Word} (h : msrPattern.accepts w = true) :
    tryDecodePsr w = some (.msr (w.extractLsb' 0 4)) := by
  simp [tryDecodePsr, h, mrs_not_accepts_of_msr h]

theorem tryDecodePsr_of_msrFlg {w : Word} (h : msrFlgPattern.accepts w = true) :
    tryDecodePsr w = some (.msrFlg (decodeOp2 w)) := by
  simp [tryDecodePsr, h, mrs_not_accepts_of_msrFlg h, msr_not_accepts_of_msrFlg h]

theorem tryDecodePsr_of_none {w : Word} (hmrs : mrsPattern.accepts w = false)
    (hmsr : msrPattern.accepts w = false) (hflg : msrFlgPattern.accepts w = false) : tryDecodePsr w = none := by
  simp [tryDecodePsr, hmrs, hmsr, hflg]

/-- A recognised PSR operation has a well-formed operand (R153, R26). -/
theorem tryDecodePsr_wf {w : Word} {k : PsrOperationKind} (h : tryDecodePsr w = some k) : k.wf = true := by
  unfold tryDecodePsr at h
  split_ifs at h <;> cases h
  · rfl
  · rfl
  · exact decodeOp2_wf w

/-! ## The Opcode Classifier (R101) and the codes of the shift kinds (R58) -/

@[simp] theorem classify_opcode (m : Mnemonic) : classify m.opcode = m := by cases m <;> rfl

@[simp] theorem opcode_classify : ∀ o : BitVec 4, (classify o).opcode = o := by decide

theorem Mnemonic.opcode_injective {m m' : Mnemonic} (h : m.opcode = m'.opcode) : m = m' := by
  rw [← classify_opcode m, h, classify_opcode]

theorem ShiftKind.code_injective {k k' : ShiftKind} (h : k.code = k'.code) : k = k' := by
  rw [← kindOf_code k, h, kindOf_code]

/-! ## The call that evaluates a decoded instruction -/

@[simp] theorem call_decodeKind (c : BitVec 2) : (decodeKind c).call = .shift := by
  unfold decodeKind
  generalize kindOf c = k
  cases k <;> rfl

@[simp] theorem call_psrInstr (k : PsrOperationKind) : (psrInstr k).call = .decodeWord := by cases k <;> rfl

@[simp] theorem call_aluInstr (m : Mnemonic) (d : Op2) : (aluInstr m d).call = .decodeWord := by cases m <;> rfl

@[simp] theorem call_shiftRegInstr (k : ShiftKind) (rs rm : RegIndex) :
    (shiftRegInstr k rs rm).call = .decodeOp2 := by cases k <;> rfl

@[simp] theorem call_shiftImmInstr (k : ShiftKind) (n : BitVec 5) (rm : RegIndex) :
    (shiftImmInstr k n rm).call = .decodeOp2 := by
  cases k with
  | rotateRight => unfold shiftImmInstr; split_ifs <;> rfl
  | logicalLeft => rfl
  | logicalRight => rfl
  | arithmeticRight => rfl

@[simp] theorem call_decodeWord (w : Word) : (decodeWord w).call = .decodeWord := by
  unfold decodeWord
  cases tryDecodePsr w with
  | some k => exact call_psrInstr k
  | none => exact call_aluInstr _ _

@[simp] theorem call_decodeOperandForm (w : Word) : (decodeOperandForm w).call = .decodeOp2 := by
  cases h25 : w.getLsbD 25 with
  | true => rw [decodeOperandForm_immediate h25]; rfl
  | false =>
    cases h4 : w.getLsbD 4 with
    | true => rw [decodeOperandForm_shiftByReg h25 h4, call_shiftRegInstr]
    | false => rw [decodeOperandForm_shiftByImm h25 h4, call_shiftImmInstr]

end Sys2Proof
end

section
/-! SUPPORT. The step function against the contracts of Machine/Contracts.lean: the meaning of every decoded
instruction is the contract's answer, so a step hands out `State.answer` or stops with its violation. Every
claim about what a step hands out goes through these lemmas. -/

namespace Sys2Proof.Machine

/-! ## What the contracts answer -/

theorem decodeWordAnswer_psr {w : Word} {k : PsrOperationKind} (h : tryDecodePsr w = some k) :
    decodeWordAnswer w = .psrTransfer k := by
  simp [decodeWordAnswer, h]

theorem decodeWordAnswer_alu {w : Word} (h : tryDecodePsr w = none) :
    decodeWordAnswer w = .alu (classify (opcodeOf w)) (familyOf (classify (opcodeOf w))) (decodeOp2 w) := by
  simp [decodeWordAnswer, h]

/-- The two branches of the flow of R53. -/
theorem decodeWordAnswer_cases (w : Word) :
    (∃ k, tryDecodePsr w = some k ∧ decodeWordAnswer w = .psrTransfer k) ∨
    (tryDecodePsr w = none ∧ decodeWordAnswer w =
      .alu (classify (opcodeOf w)) (familyOf (classify (opcodeOf w))) (decodeOp2 w)) := by
  cases h : tryDecodePsr w with
  | some k => exact .inl ⟨k, rfl, decodeWordAnswer_psr h⟩
  | none => exact .inr ⟨rfl, decodeWordAnswer_alu h⟩

/-- The contract's answer to each call. -/
theorem answer_decodeWord {s : State} (hc : s.call = .decodeWord) :
    s.answer = .ok (.decoded (decodeWordAnswer s.word)) := by
  simp only [State.answer, hc]

theorem answer_tryDecodePsr {s : State} (hc : s.call = .tryDecodePsr) :
    s.answer = .ok (.psr (tryDecodePsr s.word)) := by
  simp only [State.answer, hc]

theorem answer_classify {s : State} (hc : s.call = .classify) :
    s.answer = .ok (.classified (classify s.opcode) (familyOf (classify s.opcode))) := by
  simp only [State.answer, hc]

theorem answer_decodeOp2 {s : State} (hc : s.call = .decodeOp2) :
    s.answer = .ok (.operand (decodeOp2 s.word) (resolveOp2 .config (decodeOp2 s.word) s.x s.carryIn)) := by
  simp only [State.answer, hc]

theorem answer_shift {s : State} (hc : s.call = .shift) :
    s.answer = .ok (.shifted (shift (kindOf s.shKind) s.shAmount s.shValue s.carryIn)) := by
  simp only [State.answer, hc]

theorem answer_classifyInt {s : State} {n : Nat} (hc : s.call = .classifyInt n) :
    s.answer = (classifyNat n).map fun m => .classified m (familyOf m) := by
  simp only [State.answer, hc]

theorem answer_shiftInt {s : State} {n : Nat} (hc : s.call = .shiftInt n) :
    s.answer = (shiftNat n s.shAmount s.shValue s.carryIn).map .shifted := by
  simp only [State.answer, hc]

/-- What was handed out before has no part in the answer (R8). -/
@[simp] theorem answer_emit (s : State) (o : Output) : (s.emit o).answer = s.answer := rfl

/-! ## The step gives the contracts' answer -/

/-- The flow of R53, through the nineteen rows it decodes to. -/
theorem exec_decodeWord (w : Word) (s : State) :
    exec (decodeWord w) s = .next (s.emit (.decoded (decodeWordAnswer w))) := by
  unfold decodeWord decodeWordAnswer
  cases tryDecodePsr w with
  | some k => exact exec_psrInstr k s
  | none => exact exec_aluInstr _ _ s

/-- The Second-Operand Decoder with the resolution of R138, through the ten rows of R141. -/
theorem exec_decodeOperandForm (w : Word) (s : State) :
    exec (decodeOperandForm w) s =
      .next (s.emit (.operand (decodeOp2 w) (resolveOp2 .config (decodeOp2 w) s.x s.carryIn))) := by
  cases h25 : w.getLsbD 25 with
  | true => rw [decodeOperandForm_immediate h25, decodeOp2_immediate h25]; rfl
  | false =>
    cases h4 : w.getLsbD 4 with
    | true =>
      rw [decodeOperandForm_shiftByReg h25 h4, decodeOp2_shiftByReg h25 h4, exec_shiftRegInstr]; rfl
    | false =>
      rw [decodeOperandForm_shiftByImm h25 h4, decodeOp2_shiftByImm h25 h4, exec_shiftImmInstr]; rfl

/-- A step is the contract's answer: it hands that out and does nothing else, or stops with the violation
(R193, R171). -/
theorem step_answers (s : State) :
    (∃ o, s.answer = .ok o ∧ step s = .next (s.emit o)) ∨ (∃ f, s.answer = .error f ∧ step s = .fault f) := by
  cases hc : s.call with
  | decodeWord => exact .inl ⟨_, answer_decodeWord hc, by simp only [step, hc, exec_decodeWord]⟩
  | tryDecodePsr => exact .inl ⟨_, answer_tryDecodePsr hc, by simp only [step, hc]⟩
  | classify => exact .inl ⟨_, answer_classify hc, by simp only [step, hc]⟩
  | decodeOp2 => exact .inl ⟨_, answer_decodeOp2 hc, by simp only [step, hc, exec_decodeOperandForm]⟩
  | shift => exact .inl ⟨_, answer_shift hc, by simp only [step, hc, exec_decodeKind]⟩
  | classifyInt n =>
    rw [answer_classifyInt hc]
    simp only [step, hc, State.runClassifyInt]
    cases classifyNat n with
    | ok m => exact .inl ⟨_, rfl, rfl⟩
    | error f => exact .inr ⟨f, rfl, rfl⟩
  | shiftInt n =>
    rw [answer_shiftInt hc]
    simp only [step, hc, State.runShiftInt]
    cases shiftNat n s.shAmount s.shValue s.carryIn with
    | ok r => exact .inl ⟨_, rfl, rfl⟩
    | error f => exact .inr ⟨f, rfl, rfl⟩

theorem step_of_answer_ok {s : State} {o : Output} (h : s.answer = .ok o) : step s = .next (s.emit o) := by
  obtain ⟨o', ho, hstep⟩ | ⟨f, hf, -⟩ := step_answers s
  · rw [h] at ho; cases ho; exact hstep
  · rw [h] at hf; cases hf

theorem step_of_answer_error {s : State} {f : Fault} (h : s.answer = .error f) : step s = .fault f := by
  obtain ⟨o, ho, -⟩ | ⟨f', hf, hstep⟩ := step_answers s
  · rw [h] at ho; cases ho
  · rw [h] at hf; cases hf; exact hstep

/-- A step that goes on has handed out the contract's answer. -/
theorem answer_of_step {s t : State} (h : step s = .next t) : ∃ o, s.answer = .ok o ∧ t = s.emit o := by
  obtain ⟨o, ho, hstep⟩ | ⟨f, -, hstep⟩ := step_answers s <;> rw [hstep] at h <;> cases h
  exact ⟨o, ho, rfl⟩

/-- Two steps from inputs with the same answer hand out the same. -/
theorem out_eq_of_answer_eq {s s' t t' : State} (ht : step s = .next t) (ht' : step s' = .next t')
    (h : s.answer = s'.answer) : t.out = t'.out := by
  obtain ⟨o, ho, rfl⟩ := answer_of_step ht
  obtain ⟨o', ho', rfl⟩ := answer_of_step ht'
  rw [h, ho'] at ho
  cases ho; rfl

/-! ## Where an output comes from -/

/-- Every answer, by call: an output has one component as its origin, and a classification or a shift also
the call with a number. -/
theorem answer_cases {s : State} {o : Output} (h : s.answer = .ok o) :
    (s.call = .decodeWord ∧ o = .decoded (decodeWordAnswer s.word)) ∨
    (s.call = .tryDecodePsr ∧ o = .psr (tryDecodePsr s.word)) ∨
    (s.call = .decodeOp2 ∧
      o = .operand (decodeOp2 s.word) (resolveOp2 .config (decodeOp2 s.word) s.x s.carryIn)) ∨
    (∃ c, o = .classified (classify c) (familyOf (classify c)) ∧
      (s.call = .classify ∧ c = s.opcode ∨ s.call = .classifyInt c.toNat)) ∨
    (∃ c, o = .shifted (shift (kindOf c) s.shAmount s.shValue s.carryIn) ∧
      (s.call = .shift ∧ c = s.shKind ∨ s.call = .shiftInt c.toNat)) := by
  cases hc : s.call with
  | decodeWord => rw [answer_decodeWord hc] at h; cases h; simp
  | tryDecodePsr => rw [answer_tryDecodePsr hc] at h; cases h; simp
  | classify => rw [answer_classify hc] at h; cases h; simp
  | decodeOp2 => rw [answer_decodeOp2 hc] at h; cases h; simp
  | shift => rw [answer_shift hc] at h; cases h; simp
  | classifyInt n =>
    rw [answer_classifyInt hc, classifyNat] at h
    split_ifs at h with hn <;> cases h
    have hport : (BitVec.ofNat 4 n).toNat = n := by rw [BitVec.toNat_ofNat, Nat.mod_eq_of_lt (by omega)]
    exact .inr (.inr (.inr (.inl ⟨BitVec.ofNat 4 n, rfl, .inr (by rw [hport])⟩)))
  | shiftInt n =>
    rw [answer_shiftInt hc, shiftNat] at h
    split_ifs at h with hn <;> cases h
    have hport : (BitVec.ofNat 2 n).toNat = n := by rw [BitVec.toNat_ofNat, Nat.mod_eq_of_lt (by omega)]
    exact .inr (.inr (.inr (.inr ⟨BitVec.ofNat 2 n, rfl, .inr (by rw [hport])⟩)))

theorem decoded_of_answer {s : State} {d : Decoded} (h : s.answer = .ok (.decoded d)) :
    s.call = .decodeWord ∧ d = decodeWordAnswer s.word := by
  simpa using answer_cases h

theorem psr_of_answer {s : State} {k : Option PsrOperationKind} (h : s.answer = .ok (.psr k)) :
    s.call = .tryDecodePsr ∧ k = tryDecodePsr s.word := by
  simpa using answer_cases h

theorem operand_of_answer {s : State} {d : Op2} {r : Operand} (h : s.answer = .ok (.operand d r)) :
    s.call = .decodeOp2 ∧ d = decodeOp2 s.word ∧ r = resolveOp2 .config (decodeOp2 s.word) s.x s.carryIn := by
  simpa using answer_cases h

end Sys2Proof.Machine
end

section
/-! SUPPORT. The invariant of the outputs (Safety.lean): every contract's answer keeps it. -/

namespace Sys2Proof.Machine

theorem shiftLSL_eq_rawShift (a v : Word) (c : Bool) : ∃ r c', shiftLSL a v c = rawShift r c' := by
  unfold shiftLSL; split_ifs <;> exact ⟨_, _, rfl⟩

theorem shiftLSR_eq_rawShift (a v : Word) : ∃ r c', shiftLSR a v = rawShift r c' := by
  unfold shiftLSR; split_ifs <;> exact ⟨_, _, rfl⟩

theorem shiftASR_eq_rawShift (a v : Word) : ∃ r c', shiftASR a v = rawShift r c' := by
  unfold shiftASR; split_ifs <;> exact ⟨_, _, rfl⟩

theorem shiftROR_eq_rawShift (a v : Word) : ∃ r c', shiftROR a v = rawShift r c' := by
  rcases eq_or_ne (a.toNat % 32) 0 with h | h
  · exact ⟨_, _, shiftROR_multiple v h⟩
  · exact ⟨_, _, shiftROR_remainder v h⟩

theorem shiftRotate_eq_rawShift (a v : Word) (c : Bool) : ∃ r c', shiftRotate a v c = rawShift r c' := by
  rcases eq_or_ne a 0#32 with rfl | h
  · exact ⟨_, _, (shiftRotate_zero v c).trans (shiftRRX_eq v c)⟩
  · rw [shiftRotate_nonzero v c h]; exact shiftROR_eq_rawShift a v

/-- The engine answers raw shifts only (R27). -/
theorem shift_eq_rawShift (k : ShiftKind) (a v : Word) (c : Bool) : ∃ r c', shift k a v c = rawShift r c' := by
  cases k with
  | logicalLeft => exact shiftLSL_eq_rawShift a v c
  | logicalRight => exact shiftLSR_eq_rawShift a v
  | arithmeticRight => exact shiftASR_eq_rawShift a v
  | rotateRight => exact shiftRotate_eq_rawShift a v c

theorem rawFlagsFalse_shift (k : ShiftKind) (a v : Word) (c : Bool) : rawFlagsFalse (shift k a v c) = true := by
  obtain ⟨r, c', h⟩ := shift_eq_rawShift k a v c
  rw [h]; rfl

/-- A resolved register operand has a carry beside it, whatever the open parameters are (R138). -/
theorem resolveOp2_register_carryOut (p : ResolveParams) (op : ShiftOperator) (k : ShiftKind) (rm : RegIndex)
    (x : Vector Word 16) (c : Bool) : (resolveOp2 p (.register op k rm) x c).carryOut.isSome = true := by
  cases op with
  | immediate n => rfl
  | register rs =>
    simp only [resolveOp2, shiftedByReg]
    split_ifs <;> rfl

/-- The answer of the decode flow keeps the invariant (R25, R26). -/
theorem decodeWordAnswer_ok (w : Word) : (Output.decoded (decodeWordAnswer w)).ok = true := by
  obtain ⟨k, hk, h⟩ | ⟨-, h⟩ := decodeWordAnswer_cases w
  · rw [h]; exact tryDecodePsr_wf hk
  · rw [h]; simp only [Output.ok, decodeOp2_wf, BEq.rfl, Bool.and_self]

/-- The PSR decoder's answer keeps the invariant (R26). -/
theorem tryDecodePsr_ok (w : Word) : (Output.psr (tryDecodePsr w)).ok = true := by
  cases h : tryDecodePsr w with
  | none => rfl
  | some k => exact tryDecodePsr_wf h

/-- A well-formed descriptor beside its resolution keeps the invariant: a carry exactly for a register
operand (R132, R138). -/
theorem resolveOp2_ok (p : ResolveParams) {d : Op2} (hd : d.wf = true) (x : Vector Word 16) (c : Bool) :
    (Output.operand d (resolveOp2 p d x c)).ok = true := by
  cases d with
  | register op k rm => exact resolveOp2_register_carryOut p op k rm x c
  | immediate base rotation => simp only [Output.ok, hd, resolveOp2, immOperand, Option.isNone_none, Bool.and_self]

/-- Every answer keeps the invariants of the data types. -/
theorem answer_keeps_ok {s : State} {o : Output} (h : s.answer = .ok o) : o.ok = true := by
  obtain ⟨-, rfl⟩ | ⟨-, rfl⟩ | ⟨-, rfl⟩ | ⟨c, rfl, -⟩ | ⟨c, rfl, -⟩ := answer_cases h
  · exact decodeWordAnswer_ok s.word
  · exact tryDecodePsr_ok s.word
  · exact resolveOp2_ok .config (decodeOp2_wf s.word) s.x s.carryIn
  · exact BEq.rfl
  · exact rawFlagsFalse_shift _ _ _ _

/-- A state that holds the answer to its inputs is coherent. -/
theorem coherent_emit {s : State} {o : Output} (h : s.answer = .ok o) : (s.emit o).Coherent := by
  rw [State.Coherent, answer_emit, h]; rfl

end Sys2Proof.Machine
end

section
/-! PROOFS. The statements about every step: what it answers, what it keeps, what it leaves unchanged. -/

namespace Sys2Proof.Machine

/-- Settles O34: a step hands out the contract's answer to inputs it does not change, and every answer keeps
the invariants. -/
theorem stepKeepsTheOutputInvariant : Obligations.StepKeepsTheOutputInvariant := by
  intro s t ht
  obtain ⟨o, ho, rfl⟩ := answer_of_step ht
  exact ⟨answer_keeps_ok ho, coherent_emit ho⟩

/-- Settles O31: the two outcomes of `step_answers`. -/
theorem stepAnswersByTheContracts : Obligations.StepAnswersByTheContracts :=
  fun _ => ⟨fun _ => step_of_answer_ok, fun _ => step_of_answer_error⟩

/-- Settles O29: every instruction only emits an output. -/
theorem noInstructionChangesAnInput : Obligations.NoInstructionChangesAnInput := by
  intro i s t ht
  obtain ⟨o, ho⟩ := exec_emits i s
  rw [ho] at ht
  cases ht
  exact ⟨rfl, rfl, rfl, rfl, rfl, rfl, rfl, rfl⟩

end Sys2Proof.Machine
end

section
/-! PROOFS. The helpers of R13, bit by bit. -/

namespace Sys2Proof.Machine

/-- An arithmetic shift right repeats the sign above the bits that are left. -/
theorem getLsbD_asr32 (a : Word) (n : Nat) {k : Nat} (hk : k < 32) :
    (asr32 a n).getLsbD k = if k + n ≤ 31 then a.getLsbD (k + n) else a.getLsbD 31 := by
  rw [asr32_eq, BitVec.getLsbD_sshiftRight, BitVec.msb_eq_getLsbD_last, decide_eq_false (by omega : ¬ 32 ≤ k),
    Nat.add_comm n]
  simp only [Bool.not_false, Bool.true_and, show k + n < 32 ↔ k + n ≤ 31 by omega]

/-- A rotation right takes bit `k` from `k + n`, round the word. -/
theorem getLsbD_ror32 (a : Word) {n k : Nat} (hn : n ≤ 31) (hk : k < 32) :
    (ror32 a n).getLsbD k = a.getLsbD ((k + n) % 32) := by
  rw [ror32_eq a (by omega), BitVec.getLsbD_rotateRight, Nat.mod_eq_of_lt (by omega : n < 32), Bool.cond_decide]
  split_ifs with h
  · rw [Nat.mod_eq_of_lt (by omega), Nat.add_comm]
  · rw [decide_eq_true hk, Bool.true_and]
    congr 1
    omega

/-- Settles O27, from the bit lemma of each helper. -/
theorem shiftHelpersMoveBitsAsDefined : Obligations.ShiftHelpersMoveBitsAsDefined := by
  refine ⟨fun a n k _ hk => ⟨?_, ?_⟩, fun a n k hn hk => ⟨getLsbD_asr32 a n hk, getLsbD_ror32 a hn hk⟩,
    fun a => ⟨?_, ?_, if_pos rfl⟩, rfl, rfl⟩
  · rw [getLsbD_lsl32, decide_eq_true hk, Bool.true_and]
  · rw [getLsbD_lsr32]
    rcases Nat.lt_or_ge (k + n) 32 with h | h
    · rw [decide_eq_true h, Bool.true_and]
    · rw [BitVec.getLsbD_of_ge _ _ h, Bool.and_false]
  · rw [lsl32_eq]; exact BitVec.shiftLeft_eq_zero (Nat.le_refl 32)
  · rw [lsr32_eq]; exact BitVec.ushiftRight_eq_zero (Nat.le_refl 32)

end Sys2Proof.Machine
end

section
/-! PROOFS. What an output depends on (R8, R46, R92). -/

namespace Sys2Proof.Machine

/-- LSR and ASR read no carry, and LSL and ROR read it for an amount of 0 only (R92). -/
theorem shift_carry_irrelevant {k : ShiftKind} {a : Word} (v : Word) (c c' : Bool)
    (h : a ≠ 0#32 ∨ k = .logicalRight ∨ k = .arithmeticRight) : shift k a v c = shift k a v c' := by
  cases k with
  | logicalLeft =>
    have ha : a ≠ 0#32 := by simpa using h
    simp only [shift_logicalLeft, shiftLSL, if_neg ha]
  | logicalRight => rfl
  | arithmeticRight => rfl
  | rotateRight =>
    have ha : a ≠ 0#32 := by simpa using h
    simp only [shift_rotateRight, shiftRotate_nonzero _ _ ha]

/-- The carry reaches a shift on the ports in the cases of R92 only; the kind codes 1 and 2 are LSR and ASR
(D3). -/
theorem shift_kindOf_carry {code : BitVec 2} {a : Word} (v : Word) {c c' : Bool}
    (h : c = c' ∨ a ≠ 0#32 ∨ code = 1#2 ∨ code = 2#2) : shift (kindOf code) a v c = shift (kindOf code) a v c' := by
  rcases h with rfl | ha | rfl | rfl
  · rfl
  · exact shift_carry_irrelevant v c c' (.inl ha)
  · exact shift_carry_irrelevant v c c' (.inr (.inl rfl))
  · exact shift_carry_irrelevant v c c' (.inr (.inr rfl))

/-- An immediate operand reads no register and no carry (R132). -/
theorem resolveOp2_decodeOp2_immediate {w : Word} (h25 : w.getLsbD 25 = true) (p : ResolveParams)
    (x : Vector Word 16) (c : Bool) :
    resolveOp2 p (decodeOp2 w) x c = immOperand (w.extractLsb' 0 8) (doubled (w.extractLsb' 8 4)) := by
  rw [decodeOp2_immediate h25]; rfl

/-- Settles O33: in each clause the two answers are equal, since the contract reads only what agrees. -/
theorem outputsDependOnTheirOwnInputs : Obligations.OutputsDependOnTheirOwnInputs := by
  intro s s' t t' hcall ht ht'
  have same : s.answer = s'.answer → t.out = t'.out := out_eq_of_answer_eq ht ht'
  refine ⟨fun hc hw => same ?_, fun hc ho => same ?_, fun n hc => same ?_, fun n hc ha hv hcar => same ?_,
    fun hc hk ha hv hcar => same ?_, fun hc hw => ⟨?_, fun hx hcar => same ?_, fun h25 => same ?_⟩⟩
  · rcases hc with hc | hc
    · rw [answer_decodeWord hc, answer_decodeWord (hcall ▸ hc), hw]
    · rw [answer_tryDecodePsr hc, answer_tryDecodePsr (hcall ▸ hc), hw]
  · rw [answer_classify hc, answer_classify (hcall ▸ hc), ho]
  · rw [answer_classifyInt hc, answer_classifyInt (hcall ▸ hc)]
  · rw [answer_shiftInt hc, answer_shiftInt (hcall ▸ hc), ha, hv, hcar]
  · rw [answer_shift hc, answer_shift (hcall ▸ hc), shift_kindOf_carry _ hcar, hk, ha, hv]
  · obtain ⟨o, ho, rfl⟩ := answer_of_step ht
    obtain ⟨o', ho', rfl⟩ := answer_of_step ht'
    rw [answer_decodeOp2 hc] at ho
    rw [answer_decodeOp2 (hcall ▸ hc), ← hw] at ho'
    cases ho
    cases ho'
    exact ⟨_, _, _, rfl, rfl, rfl⟩
  · rw [answer_decodeOp2 hc, answer_decodeOp2 (hcall ▸ hc), hw, hx, hcar]
  · rw [answer_decodeOp2 hc, answer_decodeOp2 (hcall ▸ hc), ← hw, resolveOp2_decodeOp2_immediate h25,
      resolveOp2_decodeOp2_immediate h25]

end Sys2Proof.Machine
end

section
/-! PROOFS. Bits presented as a table row (log entry 4): which row they decode to, what presenting them
changes, and the step that follows. -/

namespace Sys2Proof.Machine

/-- The low two bits of a number's word are what the number is on the 2-bit kind port. -/
theorem extractLsb'_ofNat_kind (w : Nat) : (BitVec.ofNat 32 w).extractLsb' 0 2 = BitVec.ofNat 2 w := by
  apply BitVec.eq_of_toNat_eq
  simp only [BitVec.extractLsb'_toNat, BitVec.toNat_ofNat, Nat.shiftRight_zero]
  omega

/-- Eight bits or fewer go to the Shift Engine. -/
theorem tableCall_kind {nbits w : Nat} (h8 : nbits ≤ 8) :
    tableCall nbits w = if w < 4 then .shift else .shiftInt w := if_pos h8

/-- More than eight bits go to one of the two decoders of words. -/
theorem tableCall_wide {nbits : Nat} (w : Nat) (h8 : 8 < nbits) :
    tableCall nbits w = .decodeOp2 ∨ tableCall nbits w = .decodeWord := by
  rw [tableCall, if_neg (by omega)]
  split_ifs
  · exact .inl rfl
  · exact .inr rfl

/-- Bits that decode as a table row fit a word and are decoded by their component's decoder. -/
theorem decodeAt_of_decodeTableWord {nbits w : Nat} {i : Instr} (h : decodeTableWord nbits w = some i) :
    w < 2 ^ 32 ∧ decodeAt (tableCall nbits w) (BitVec.ofNat 32 w) = .ok i := by
  unfold decodeTableWord at h
  split_ifs at h with hfits
  refine ⟨hfits.2, ?_⟩
  cases hd : decodeAt (tableCall nbits w) (BitVec.ofNat 32 w) with
  | ok j => rw [hd] at h; cases h; rfl
  | error e => rw [hd] at h; cases h

/-- A kind row: a code of the 2-bit port and its instruction. -/
theorem decodeTableWord_kind {nbits w : Nat} {i : Instr} (h8 : nbits ≤ 8) (h : decodeTableWord nbits w = some i) :
    w < 4 ∧ i = decodeKind (BitVec.ofNat 2 w) := by
  obtain ⟨-, hd⟩ := decodeAt_of_decodeTableWord h
  rw [tableCall_kind h8] at hd
  split_ifs at hd with hw
  · rw [decodeAt, BitVec.toNat_ofNat, Nat.mod_eq_of_lt (by omega), if_pos hw, extractLsb'_ofNat_kind] at hd
    cases hd
    exact ⟨hw, rfl⟩
  · cases hd

/-- A wider row goes to the decoder of the call that evaluates it. -/
theorem tableCall_eq_call {nbits w : Nat} {i : Instr} (h8 : 8 < nbits) (h : decodeTableWord nbits w = some i) :
    tableCall nbits w = i.call := by
  obtain ⟨-, hd⟩ := decodeAt_of_decodeTableWord h
  rcases tableCall_wide w h8 with hc | hc <;> rw [hc] at hd ⊢ <;> cases hd
  · exact (call_decodeOperandForm _).symm
  · exact (call_decodeWord _).symm

theorem withFetchWord_kind (s : State) {nbits w : Nat} (h8 : nbits ≤ 8) (hw : w < 4) :
    s.withFetchWord nbits w = { s with call := .shift, shKind := BitVec.ofNat 2 w } := by
  rw [State.withFetchWord, tableCall_kind h8, if_pos hw]

theorem withFetchWord_wide (s : State) {nbits w : Nat} (h8 : 8 < nbits) (hw : w < 2 ^ 32) :
    s.withFetchWord nbits w = s.presentWord (tableCall nbits w) (BitVec.ofNat 32 w) := by
  rcases tableCall_wide w h8 with hc | hc <;> rw [State.withFetchWord, hc] <;> exact State.presentWide_fits s _ hw

/-- The step after a word is presented to its decoder runs the instruction decoded from it. -/
theorem step_presentWord_of_decodeAt (s : State) {c : Call} {w : Word} {i : Instr}
    (hc : c = .decodeOp2 ∨ c = .decodeWord) (hd : decodeAt c w = .ok i) :
    step (s.presentWord c w) = exec i (s.presentWord c w) := by
  rcases hc with rfl | rfl <;> cases hd <;> rfl

/-- Settles O37: a kind row changes the call and the kind port, a wider row the call and the word. -/
theorem presentedTableRowRunsNext : Obligations.PresentedTableRowRunsNext := by
  intro s nbits w i h
  rcases Nat.lt_or_ge 8 nbits with h8 | h8
  · obtain ⟨hw, hd⟩ := decodeAt_of_decodeTableWord h
    have hrun := step_presentWord_of_decodeAt s (tableCall_wide w h8) hd
    rw [withFetchWord_wide s h8 hw]
    rw [tableCall_eq_call h8 h] at hrun ⊢
    exact ⟨hrun, rfl, fun h8' => absurd h8' (by omega), fun _ => rfl, fun h8' => absurd h8' (by omega), fun _ => rfl,
      rfl, rfl, rfl, rfl, rfl, rfl⟩
  · obtain ⟨hw, rfl⟩ := decodeTableWord_kind h8 h
    rw [withFetchWord_kind s h8 hw]
    exact ⟨rfl, (call_decodeKind _).symm, fun _ => rfl, fun h8' => absurd h8' (by omega), fun _ => rfl,
      fun h8' => absurd h8' (by omega), rfl, rfl, rfl, rfl, rfl, rfl⟩

end Sys2Proof.Machine
end

section
/-! PROOFS. The port signals of R11: what each carries, that they lose nothing, and that an evaluation hands
out what they carry. -/

namespace Sys2Proof.Machine

@[simp] theorem shiftKind_op2Ports_register (op : ShiftOperator) (k : ShiftKind) (rm : RegIndex) :
    (op2Ports (.register op k rm)).shiftKind = some k.code := by
  cases op <;> rfl

/-- The form is read from `op2_is_imm` and `shift_by_reg`, each field from its own port. -/
theorem op2Ports_injective {d d' : Op2} (h : op2Ports d = op2Ports d') : d = d' := by
  cases d with
  | immediate base rotation =>
    cases d' with
    | immediate base' rotation' => cases h; rfl
    | register op' k' rm' => cases op' <;> cases h
  | register op k rm =>
    cases d' with
    | immediate base' rotation' => cases op <;> cases h
    | register op' k' rm' =>
      have hk : k.code = k'.code := by simpa using congrArg Op2Ports.shiftKind h
      obtain rfl := ShiftKind.code_injective hk
      cases op <;> cases op' <;> cases h <;> rfl

/-- The shape is read from the operand port that has a value, and the operand from that port. -/
theorem psrPorts_some_injective {k k' : PsrOperationKind} (h : psrPorts (some k) = psrPorts (some k')) :
    k = k' := by
  cases k with
  | mrs rd =>
    cases k' with
    | mrs rd' => rw [Option.some.inj (congrArg PsrPorts.psrRd h)]
    | msr rm' => simp [psrPorts] at h
    | msrFlg d' => simp [psrPorts] at h
  | msr rm =>
    cases k' with
    | mrs rd' => simp [psrPorts] at h
    | msr rm' => rw [Option.some.inj (congrArg PsrPorts.psrRm h)]
    | msrFlg d' => simp [psrPorts] at h
  | msrFlg d =>
    cases k' with
    | mrs rd' => simp [psrPorts] at h
    | msr rm' => simp [psrPorts] at h
    | msrFlg d' => rw [op2Ports_injective (Option.some.inj (congrArg PsrPorts.op2 h))]

/-- `psr_valid` is 0 for no answer and 1 for every shape (R150). -/
@[simp] theorem psrValid_none : (psrPorts none).psrValid = false := rfl

@[simp] theorem psrValid_some (k : PsrOperationKind) : (psrPorts (some k)).psrValid = true := by
  cases k <;> rfl

theorem psrPorts_injective {k k' : Option PsrOperationKind} (h : psrPorts k = psrPorts k') : k = k' := by
  have hvalid := congrArg PsrPorts.psrValid h
  cases k with
  | none =>
    cases k' with
    | none => rfl
    | some o' => simp at hvalid
  | some o =>
    cases k' with
    | none => simp at hvalid
    | some o' => rw [psrPorts_some_injective h]

theorem classifierPorts_injective {m m' : Mnemonic} (h : classifierPorts m = classifierPorts m') : m = m' :=
  Mnemonic.opcode_injective (congrArg ClassifierPorts.mnemonic h)

theorem psrValid_iff (k : Option PsrOperationKind) : (psrPorts k).psrValid = true ↔ ∃ k', k = some k' := by
  cases k <;> simp

/-- Settles O41, from the injectivity of the three port maps. -/
theorem portSignalsLoseNothing : Obligations.PortSignalsLoseNothing :=
  ⟨fun _ _ => op2Ports_injective, fun _ _ => psrPorts_injective, fun _ _ => classifierPorts_injective,
    fun w => psrValid_iff (tryDecodePsr w)⟩

/-- The operand ports of a word, form by form (R131, R134, R135). -/
theorem op2Ports_immediate {w : Word} (h25 : w.getLsbD 25 = true) :
    op2Ports (decodeOp2 w) =
      ⟨true, some (w.extractLsb' 0 8), some (w.extractLsb' 8 4 ++ 0#1), none, none, none, none, none⟩ := by
  rw [decodeOp2_immediate h25, doubled_eq_append]; rfl

theorem op2Ports_shiftByImm {w : Word} (h25 : w.getLsbD 25 = false) (h4 : w.getLsbD 4 = false) :
    op2Ports (decodeOp2 w) =
      ⟨false, none, none, some (w.extractLsb' 0 4), some (w.extractLsb' 5 2), some false,
        some (w.extractLsb' 7 5), none⟩ := by
  rw [decodeOp2_shiftByImm h25 h4, op2Ports, code_kindOf]

theorem op2Ports_shiftByReg {w : Word} (h25 : w.getLsbD 25 = false) (h4 : w.getLsbD 4 = true) :
    op2Ports (decodeOp2 w) =
      ⟨false, none, none, some (w.extractLsb' 0 4), some (w.extractLsb' 5 2), some true,
        none, some (w.extractLsb' 8 4)⟩ := by
  rw [decodeOp2_shiftByReg h25 h4, op2Ports, code_kindOf]

/-- `op2_is_imm` is the immediate flag (R130). -/
theorem op2IsImm_decodeOp2 (w : Word) : (op2Ports (decodeOp2 w)).op2IsImm = w.getLsbD 25 := by
  cases h25 : w.getLsbD 25 with
  | true => rw [op2Ports_immediate h25]
  | false =>
    cases h4 : w.getLsbD 4 with
    | true => rw [op2Ports_shiftByReg h25 h4]
    | false => rw [op2Ports_shiftByImm h25 h4]

/-- `family` is 1 on the eight Arithmetic opcodes (R102, D5). -/
theorem familyCode_classify : ∀ o : BitVec 4, familyCode (familyOf (classify o)) = 1#1 ↔
    (2 ≤ o.toNat ∧ o.toNat ≤ 7) ∨ o = 0xA#4 ∨ o = 0xB#4 := by decide

/-- The shift outputs are those of the kind whose code is presented (R80, R58). -/
theorem sh_ports_of_shKind (s : State) {code : BitVec 2} (h : s.shKind = code) :
    s.ports.sh = shift (kindOf code) s.shAmount s.shValue s.carryIn := by
  rw [State.ports, h]

/-- Settles O42, port by port. -/
theorem portsCarryTheListedCodes : Obligations.PortsCarryTheListedCodes := by
  rintro s _ rfl
  refine ⟨op2IsImm_decodeOp2 s.word, op2Ports_immediate, op2Ports_shiftByImm, op2Ports_shiftByReg, fun h => ?_,
    fun h => ?_, fun h => ?_, fun hmrs hmsr hflg => ?_, opcode_classify s.opcode, familyCode_classify s.opcode,
    sh_ports_of_shKind s, sh_ports_of_shKind s, sh_ports_of_shKind s, sh_ports_of_shKind s⟩
  · rw [State.ports, tryDecodePsr_of_mrs h]; rfl
  · rw [State.ports, tryDecodePsr_of_msr h]; rfl
  · rw [State.ports, tryDecodePsr_of_msrFlg h]; rfl
  · rw [State.ports, tryDecodePsr_of_none hmrs hmsr hflg]; rfl

/-- The output ports are a function of the input ports alone (R8). -/
@[simp] theorem ports_emit (s : State) (o : Output) : (s.emit o).ports = s.ports := rfl

/-- Settles O43: each output has one origin, and the ports carry that component's answer. -/
theorem evaluationsHandOutThePorts : Obligations.EvaluationsHandOutThePorts := by
  intro s t ht
  obtain ⟨o, ho, rfl⟩ := answer_of_step ht
  refine ⟨ports_emit s o, ?_, ?_, ?_, ?_, ?_, ?_⟩
  · rintro k rfl
    obtain ⟨-, rfl⟩ := psr_of_answer ho
    rfl
  · rintro m f hc rfl
    rw [answer_classify hc] at ho
    cases ho; rfl
  · rintro d r rfl
    obtain ⟨-, rfl, -⟩ := operand_of_answer ho
    rfl
  · rintro r hc rfl
    rw [answer_shift hc] at ho
    cases ho; rfl
  · rintro k rfl
    obtain ⟨-, hk⟩ := decoded_of_answer ho
    obtain ⟨k', hpsr, h⟩ | ⟨-, h⟩ := decodeWordAnswer_cases s.word <;> rw [h] at hk <;> cases hk
    exact congrArg psrPorts hpsr
  · rintro m f d rfl
    obtain ⟨-, hk⟩ := decoded_of_answer ho
    obtain ⟨k', -, h⟩ | ⟨hpsr, h⟩ := decodeWordAnswer_cases s.word <;> rw [h] at hk <;> cases hk
    exact ⟨by rw [State.ports, hpsr, psrValid_none], rfl, fun hop => by rw [State.ports, hop]; rfl⟩

end Sys2Proof.Machine
end

section
/-! PROOFS. No state of its own: what an evaluation hands out does not depend on what was evaluated before
(R30), and the outputs after reset are those of the inputs after reset (R186). -/

namespace Sys2Proof.Machine

/-- States with the same inputs are one state up to the output it holds. -/
theorem eq_emit_of_sameInputs {s s' : State} (h : s.sameInputs s') : s' = s.emit s'.out := by
  cases s
  cases s'
  obtain ⟨rfl, rfl, rfl, rfl, rfl, rfl, rfl, rfl⟩ := h
  rfl

/-- The contracts answer the inputs alone (R8). -/
theorem answer_eq_of_sameInputs {s s' : State} (h : s.sameInputs s') : s.answer = s'.answer := by
  rw [eq_emit_of_sameInputs h, answer_emit]

/-- A state a step gave is a fixed point: it already holds the answer to its inputs. -/
theorem step_fixed_of_step {s t : State} (h : step s = .next t) : step t = .next t := by
  obtain ⟨o, ho, rfl⟩ := answer_of_step h
  have hagain : (s.emit o).answer = .ok o := by rw [answer_emit, ho]
  rw [step_of_answer_ok hagain, State.emit_emit]

/-- Settles O32: a step gives a fixed point, and equal inputs have equal answers. -/
theorem reevaluationGivesTheSameOutputs : Obligations.ReevaluationGivesTheSameOutputs :=
  ⟨fun _ _ => step_fixed_of_step,
    fun _ _ _ _ hin ht ht' => out_eq_of_answer_eq ht ht' (answer_eq_of_sameInputs hin)⟩

/-- The reset state is a fixed point: evaluating its zero inputs gives the outputs it holds (log entry 1). -/
theorem step_reset : step State.reset = .next State.reset := rfl

/-- Settles O35: the reset state is one a step gives, and every step establishes the invariant (O34). -/
theorem resetMeetsTheOutputInvariant : Obligations.ResetMeetsTheOutputInvariant :=
  stepKeepsTheOutputInvariant State.reset State.reset step_reset

end Sys2Proof.Machine
end

section
/-! SUPPORT. Words read field by field (R12): what a field of an encoded word holds, and patterns as
equations between fields. -/

namespace Sys2Proof

/-- Bit `i` of a placed field, in the spelling `simp` uses below the width. -/
@[simp] theorem getElem_place {n : Nat} (v : BitVec n) (lo : Nat) {i : Nat} (h : i < 32) :
    (place v lo)[i] = (decide (lo ≤ i) && v.getLsbD (i - lo)) := by
  rw [← BitVec.getLsbD_eq_getElem, getLsbD_place, decide_eq_true h, Bool.true_and]

/-- A placed field is read back at its own position. -/
@[simp] theorem extractLsb'_place_same {n : Nat} (v : BitVec n) {lo : Nat} (h : lo + n ≤ 32) :
    (place v lo).extractLsb' lo n = v := by
  refine BitVec.eq_of_getLsbD_eq fun i hi => ?_
  rw [BitVec.getLsbD_extractLsb', getLsbD_place, Nat.add_sub_cancel_left]
  simp [hi, show lo + i < 32 by omega]

/-- A placed field leaves every other position 0. -/
@[simp] theorem extractLsb'_place_apart {n : Nat} (v : BitVec n) {lo lo' n' : Nat} (h : lo' + n' ≤ lo ∨ lo + n ≤ lo') :
    (place v lo).extractLsb' lo' n' = 0#n' := by
  refine BitVec.eq_of_getLsbD_eq fun i hi => ?_
  rw [BitVec.getLsbD_extractLsb', getLsbD_place, BitVec.getLsbD_zero]
  rcases h with h | h
  · simp [show ¬ lo ≤ lo' + i by omega]
  · simp [BitVec.getLsbD_of_ge v (lo' + i - lo) (by omega)]

/-- The bits `lo` to `lo + n - 1` of a word. -/
def fieldMask (lo n : Nat) : Word := place (BitVec.allOnes n) lo

theorem getLsbD_fieldMask (lo n i : Nat) :
    (fieldMask lo n).getLsbD i = (decide (i < 32) && decide (lo ≤ i ∧ i < lo + n)) := by
  rw [fieldMask, getLsbD_place, BitVec.getLsbD_allOnes]
  by_cases h : lo ≤ i
  · simp [h, show i - lo < n ↔ i < lo + n by omega]
  · simp [h]

/-- Two words agree under a field's mask exactly when they hold the same field. -/
theorem and_fieldMask_eq_iff (w v : Word) (lo n : Nat) :
    w &&& fieldMask lo n = v &&& fieldMask lo n ↔ w.extractLsb' lo n = v.extractLsb' lo n := by
  constructor <;> intro h <;> refine BitVec.eq_of_getLsbD_eq fun i hi => ?_
  · rw [BitVec.getLsbD_extractLsb', BitVec.getLsbD_extractLsb']
    rcases Nat.lt_or_ge (lo + i) 32 with h32 | h32
    · have hbit := congrArg (BitVec.getLsbD · (lo + i)) h
      simp only [BitVec.getLsbD_and, getLsbD_fieldMask, h32, Nat.le_add_right, Nat.add_lt_add_left hi] at hbit
      simpa [hi] using hbit
    · rw [BitVec.getLsbD_of_ge w _ h32, BitVec.getLsbD_of_ge v _ h32]
  · rw [BitVec.getLsbD_and, BitVec.getLsbD_and, getLsbD_fieldMask]
    by_cases hin : lo ≤ i ∧ i < lo + n
    · obtain ⟨k, rfl⟩ := Nat.exists_eq_add_of_le hin.1
      have hbit := congrArg (BitVec.getLsbD · k) h
      simp only [BitVec.getLsbD_extractLsb', show k < n by omega, decide_true, Bool.true_and] at hbit
      rw [hbit]
    · simp only [hin, decide_false, Bool.and_false]

/-- Two words agree under a union of masks exactly when they agree under both. -/
theorem and_or_eq_iff (w v a b : Word) :
    w &&& (a ||| b) = v &&& (a ||| b) ↔ w &&& a = v &&& a ∧ w &&& b = v &&& b := by
  constructor
  · intro h
    have hsub : ∀ m : Word, (a ||| b) &&& m = m → w &&& m = v &&& m := fun m hm => by
      rw [← hm, ← BitVec.and_assoc, ← BitVec.and_assoc, h]
    exact ⟨hsub a (by ext i; simp; tauto), hsub b (by ext i; simp; tauto)⟩
  · rintro ⟨ha, hb⟩
    rw [BitVec.and_or_distrib_left, BitVec.and_or_distrib_left, ha, hb]

/-- The mask of several fields, each given by its lowest bit and its width. -/
def fieldsMask (fs : List (Nat × Nat)) : Word := fs.foldr (fun f m => fieldMask f.1 f.2 ||| m) 0#32

theorem and_fieldsMask_eq_iff (w v : Word) (fs : List (Nat × Nat)) :
    w &&& fieldsMask fs = v &&& fieldsMask fs ↔ ∀ f ∈ fs, w.extractLsb' f.1 f.2 = v.extractLsb' f.1 f.2 := by
  induction fs with
  | nil => simp [fieldsMask]
  | cons f fs ih =>
    rw [List.forall_mem_cons, ← ih, ← and_fieldMask_eq_iff, ← and_or_eq_iff]
    rfl

/-- A pattern whose mask is made of fields accepts the words that hold its value in each of them (R60). -/
theorem Pattern.accepts_iff_fields {p : Pattern} (fs : List (Nat × Nat)) (hmask : p.mask = fieldsMask fs)
    (hvalue : p.value &&& p.mask = p.value) (w : Word) :
    p.accepts w = true ↔ ∀ f ∈ fs, w.extractLsb' f.1 f.2 = p.value.extractLsb' f.1 f.2 := by
  rw [p.accepts_iff, ← and_fieldsMask_eq_iff, ← hmask, hvalue]

end Sys2Proof
end

section
/-! PROOFS. The PSR patterns as fields (R60, conflict C1), and the answers of TryDecodePsr by pattern. -/

namespace Sys2Proof

theorem mrsPattern_accepts_iff (w : Word) : mrsPattern.accepts w = true ↔
    w.extractLsb' 23 5 = 0b00010#5 ∧ w.extractLsb' 16 6 = 0b001111#6 ∧ w.extractLsb' 0 12 = 0#12 := by
  rw [Pattern.accepts_iff_fields [(23, 5), (16, 6), (0, 12)] (by decide) (by decide)]
  simp [mrsPattern]

theorem msrPattern_accepts_iff (w : Word) : msrPattern.accepts w = true ↔
    w.extractLsb' 23 5 = 0b00010#5 ∧ w.extractLsb' 12 10 = 0b1010011111#10 ∧ w.extractLsb' 4 8 = 0#8 := by
  rw [Pattern.accepts_iff_fields [(23, 5), (12, 10), (4, 8)] (by decide) (by decide)]
  simp [msrPattern]

theorem msrFlgPattern_accepts_iff (w : Word) : msrFlgPattern.accepts w = true ↔
    w.extractLsb' 26 2 = 0b00#2 ∧ w.extractLsb' 23 2 = 0b10#2 ∧ w.extractLsb' 12 10 = 0b1010001111#10 := by
  rw [Pattern.accepts_iff_fields [(26, 2), (23, 2), (12, 10)] (by decide) (by decide)]
  simp [msrFlgPattern]

/-- The four answers of TryDecodePsr, each with the patterns that give it (R150). -/
theorem tryDecodePsr_cases (w : Word) :
    (mrsPattern.accepts w = true ∧ tryDecodePsr w = some (.mrs (w.extractLsb' 12 4))) ∨
    (msrPattern.accepts w = true ∧ tryDecodePsr w = some (.msr (w.extractLsb' 0 4))) ∨
    (msrFlgPattern.accepts w = true ∧ tryDecodePsr w = some (.msrFlg (decodeOp2 w))) ∨
    ((mrsPattern.accepts w = false ∧ msrPattern.accepts w = false ∧ msrFlgPattern.accepts w = false) ∧
      tryDecodePsr w = none) := by
  cases hmrs : mrsPattern.accepts w with
  | true => exact .inl ⟨rfl, tryDecodePsr_of_mrs hmrs⟩
  | false =>
    cases hmsr : msrPattern.accepts w with
    | true => exact .inr (.inl ⟨rfl, tryDecodePsr_of_msr hmsr⟩)
    | false =>
      cases hflg : msrFlgPattern.accepts w with
      | true => exact .inr (.inr (.inl ⟨rfl, tryDecodePsr_of_msrFlg hflg⟩))
      | false => exact .inr (.inr (.inr ⟨⟨rfl, rfl, rfl⟩, tryDecodePsr_of_none hmrs hmsr hflg⟩))

theorem tryDecodePsr_eq_mrs_iff (w : Word) :
    tryDecodePsr w = some (.mrs (w.extractLsb' 12 4)) ↔ mrsPattern.accepts w = true := by
  refine ⟨fun h => ?_, tryDecodePsr_of_mrs⟩
  obtain ⟨hmrs, -⟩ | ⟨-, h'⟩ | ⟨-, h'⟩ | ⟨-, h'⟩ := tryDecodePsr_cases w
  · exact hmrs
  all_goals rw [h'] at h; cases h

theorem tryDecodePsr_eq_msr_iff (w : Word) :
    tryDecodePsr w = some (.msr (w.extractLsb' 0 4)) ↔ msrPattern.accepts w = true := by
  refine ⟨fun h => ?_, tryDecodePsr_of_msr⟩
  obtain ⟨-, h'⟩ | ⟨hmsr, -⟩ | ⟨-, h'⟩ | ⟨-, h'⟩ := tryDecodePsr_cases w
  · rw [h'] at h; cases h
  · exact hmsr
  all_goals rw [h'] at h; cases h

theorem tryDecodePsr_eq_msrFlg_iff (w : Word) :
    tryDecodePsr w = some (.msrFlg (decodeOp2 w)) ↔ msrFlgPattern.accepts w = true := by
  refine ⟨fun h => ?_, tryDecodePsr_of_msrFlg⟩
  obtain ⟨-, h'⟩ | ⟨-, h'⟩ | ⟨hflg, -⟩ | ⟨-, h'⟩ := tryDecodePsr_cases w
  · rw [h'] at h; cases h
  · rw [h'] at h; cases h
  · exact hflg
  · rw [h'] at h; cases h

theorem tryDecodePsr_eq_none_iff (w : Word) : tryDecodePsr w = none ↔
    mrsPattern.accepts w = false ∧ msrPattern.accepts w = false ∧ msrFlgPattern.accepts w = false := by
  refine ⟨fun h => ?_, fun ⟨hmrs, hmsr, hflg⟩ => tryDecodePsr_of_none hmrs hmsr hflg⟩
  obtain ⟨-, h'⟩ | ⟨-, h'⟩ | ⟨-, h'⟩ | ⟨hnone, -⟩ := tryDecodePsr_cases w
  · rw [h'] at h; cases h
  · rw [h'] at h; cases h
  · rw [h'] at h; cases h
  · exact hnone

theorem tryDecodePsr_eq_some_iff (w : Word) : (∃ k, tryDecodePsr w = some k) ↔
    mrsPattern.accepts w = true ∨ msrPattern.accepts w = true ∨ msrFlgPattern.accepts w = true := by
  rw [← Option.ne_none_iff_exists', Ne, tryDecodePsr_eq_none_iff, not_and_or, not_and_or]
  simp only [Bool.not_eq_false]

/-- Settles O8: each answer is its pattern, and each pattern its fields. -/
theorem psrPatternsAreTheirFieldPredicates : Obligations.PsrPatternsAreTheirFieldPredicates := fun w =>
  ⟨(tryDecodePsr_eq_mrs_iff w).trans (mrsPattern_accepts_iff w),
    (tryDecodePsr_eq_msr_iff w).trans (msrPattern_accepts_iff w),
    (tryDecodePsr_eq_msrFlg_iff w).trans (msrFlgPattern_accepts_iff w)⟩

end Sys2Proof
end

section
/-! PROOFS. Decoding an encoding (R51): each field the decoder reads is the one the encoder placed. -/

namespace Sys2Proof

/-! ## The second operand -/

/-- Bits outside the operand field do not reach the descriptor (R130). -/
theorem decodeOp2_or_of_outside {x : Word} (w : Word) (h25 : x.getLsbD 25 = false)
    (h : x.extractLsb' 0 12 = 0#12) : decodeOp2 (x ||| w) = decodeOp2 w := by
  have hbit : ∀ i < 12, x.getLsbD i = false := fun i hi => by
    simpa [hi] using congrArg (BitVec.getLsbD · i) h
  have hfield : ∀ lo n, lo + n ≤ 12 → (x ||| w).extractLsb' lo n = w.extractLsb' lo n := fun lo n hn => by
    refine BitVec.eq_of_getLsbD_eq fun i hi => ?_
    simp only [BitVec.getLsbD_extractLsb', BitVec.getLsbD_or, hbit (lo + i) (by omega), Bool.false_or]
  simp only [decodeOp2, decodeOp2Imm, decodeOp2RegImm, decodeOp2RegReg, BitVec.getLsbD_or, h25,
    hbit 4 (by decide), hfield 0 8 (by decide), hfield 8 4 (by decide), hfield 7 5 (by decide),
    hfield 5 2 (by decide), hfield 0 4 (by decide), Bool.false_or]

/-- The Second-Operand Decoder reads back every well-formed descriptor (R131, R134, R135). -/
theorem decodeOp2_encodeOp2 {d : Op2} (h : d.wf = true) : decodeOp2 (encodeOp2 d) = d := by
  cases d with
  | immediate base shift =>
    have heven : doubled (shift.extractLsb' 1 4) = shift := doubled_half shift (by simpa [Op2.wf] using h)
    rw [decodeOp2_immediate (by simp [encodeOp2])]
    simp [encodeOp2, BitVec.extractLsb'_or, heven]
  | register op k rm =>
    cases op with
    | immediate n =>
      rw [decodeOp2_shiftByImm (by simp [encodeOp2]) (by simp [encodeOp2])]
      simp [encodeOp2, BitVec.extractLsb'_or]
    | register rs =>
      rw [decodeOp2_shiftByReg (by simp [encodeOp2]) (by simp [encodeOp2])]
      simp [encodeOp2, BitVec.extractLsb'_or]

/-- The operand-form row of a descriptor (R141). -/
def operandInstr : Op2 → Instr
  | .immediate base shift => .opImm (shift.extractLsb' 1 4) base
  | .register (.immediate n) kind rm => shiftImmInstr kind n rm
  | .register (.register rs) kind rm => shiftRegInstr kind rs rm

/-- The row of a word is the row of its descriptor: the two decoders of R130 and R141 agree. -/
theorem decodeOperandForm_eq_operandInstr (w : Word) : decodeOperandForm w = operandInstr (decodeOp2 w) := by
  cases h25 : w.getLsbD 25 with
  | true => rw [decodeOperandForm_immediate h25, decodeOp2_immediate h25, operandInstr, half_doubled]
  | false =>
    cases h4 : w.getLsbD 4 with
    | true => rw [decodeOperandForm_shiftByReg h25 h4, decodeOp2_shiftByReg h25 h4, operandInstr]
    | false => rw [decodeOperandForm_shiftByImm h25 h4, decodeOp2_shiftByImm h25 h4, operandInstr]

theorem decodeOperandForm_encodeOp2 {d : Op2} (h : d.wf = true) :
    decodeOperandForm (encodeOp2 d) = operandInstr d := by
  rw [decodeOperandForm_eq_operandInstr, decodeOp2_encodeOp2 h]

/-! ## The PSR shapes -/

theorem decodeWord_of_tryDecodePsr {w : Word} {k : PsrOperationKind} (h : tryDecodePsr w = some k) :
    decodeWord w = psrInstr k := by
  rw [decodeWord, h]

theorem decodeWord_of_no_psr {w : Word} (h : tryDecodePsr w = none) :
    decodeWord w = aluInstr (classify (opcodeOf w)) (decodeOp2 w) := by
  rw [decodeWord, h]

theorem decodeWord_encodeMrs (rd : RegIndex) : decodeWord (encodeMrs rd) = .mrs rd := by
  have hfield : (encodeMrs rd).extractLsb' 12 4 = rd := by simp [encodeMrs, BitVec.extractLsb'_or]
  have hrow : mrsPattern.accepts (encodeMrs rd) = true := Laws.TableRow.mrs rd
  rw [decodeWord_of_tryDecodePsr (tryDecodePsr_of_mrs hrow), hfield, psrInstr]

theorem decodeWord_encodeMsr (rm : RegIndex) : decodeWord (encodeMsr rm) = .msr rm := by
  have hfield : (encodeMsr rm).extractLsb' 0 4 = rm := by simp [encodeMsr, BitVec.extractLsb'_or]
  have hrow : msrPattern.accepts (encodeMsr rm) = true := Laws.TableRow.msr rm
  rw [decodeWord_of_tryDecodePsr (tryDecodePsr_of_msr hrow), hfield, psrInstr]

theorem decodeWord_encodeMsrFlg {d : Op2} (h : d.wf = true) : decodeWord (encodeMsrFlg d) = .msrFlg d := by
  have hop2 : decodeOp2 (encodeMsrFlg d) = d := by
    rw [encodeMsrFlg, decodeOp2_or_of_outside _ (by simp) (by simp [BitVec.extractLsb'_or]), decodeOp2_encodeOp2 h]
  have hrow : msrFlgPattern.accepts (encodeMsrFlg d) = true := Laws.TableRow.msrFlg d
  rw [decodeWord_of_tryDecodePsr (tryDecodePsr_of_msrFlg hrow), hop2, psrInstr]

/-! ## The ALU words -/

/-- A pattern accepts no word that differs from its value in a bit of its mask. -/
theorem Pattern.accepts_eq_false_of_bit {p : Pattern} {w : Word} {i : Nat} (hmask : p.mask.getLsbD i = true)
    (hbit : w.getLsbD i ≠ p.value.getLsbD i) : p.accepts w = false := by
  rw [p.accepts_eq_false_iff]
  intro h
  rw [← h, BitVec.getLsbD_and, hmask, Bool.and_true] at hbit
  exact hbit rfl

/-- Every PSR pattern asks for bit 19, so a word without it is an ALU word (R60). -/
theorem tryDecodePsr_eq_none_of_bit19 {w : Word} (h : w.getLsbD 19 = false) : tryDecodePsr w = none :=
  tryDecodePsr_of_none (Pattern.accepts_eq_false_of_bit (i := 19) rfl (by rw [h]; decide))
    (Pattern.accepts_eq_false_of_bit (i := 19) rfl (by rw [h]; decide))
    (Pattern.accepts_eq_false_of_bit (i := 19) rfl (by rw [h]; decide))

/-- The classifier reads the opcode at its position (R59), above the whole of the second operand but bit 25. -/
theorem opcodeOf_encodeDp (m : Mnemonic) (d : Op2) : opcodeOf (encodeDp m d) = m.opcode := by
  have hop2 : (encodeOp2 d).extractLsb' 21 4 = 0#4 := by
    refine BitVec.eq_of_getLsbD_eq fun i hi => ?_
    rw [BitVec.getLsbD_extractLsb', encodeOp2_outside d (21 + i) (by omega) (by omega), Bool.and_false,
      BitVec.getLsbD_zero]
  rw [opcodeOf, encodeDp, BitVec.extractLsb'_or, hop2, extractLsb'_place_same _ (by decide), BitVec.or_zero]

theorem decodeWord_encodeDp (m : Mnemonic) {d : Op2} (h : d.wf = true) : decodeWord (encodeDp m d) = aluInstr m d := by
  have hbit : (encodeDp m d).getLsbD 19 = false := by
    rw [encodeDp, BitVec.getLsbD_or, encodeOp2_outside d 19 (by decide) (by decide), getLsbD_place]; rfl
  have hop2 : decodeOp2 (encodeDp m d) = d := by
    rw [encodeDp, decodeOp2_or_of_outside _ (by simp) (by simp), decodeOp2_encodeOp2 h]
  rw [decodeWord_of_no_psr (tryDecodePsr_eq_none_of_bit19 hbit), opcodeOf_encodeDp, classify_opcode, hop2]

/-! ## Every row -/

/-- Decoding the word of a well-formed operand form gives its row (R141). -/
theorem decodeAt_encodeOp2 {d : Op2} (h : d.wf = true) :
    decodeAt .decodeOp2 (encodeOp2 d) = .ok (operandInstr d) := by
  rw [decodeAt, decodeOperandForm_encodeOp2 h]

theorem decodeAt_encodeDp (m : Mnemonic) {d : Op2} (h : d.wf = true) :
    decodeAt .decodeWord (encodeDp m d) = .ok (aluInstr m d) := by
  rw [decodeAt, decodeWord_encodeDp m h]

/-- The rotate count survives the doubled rotation of its descriptor (R131). -/
theorem operandInstr_opImm (r : BitVec 4) (base : BitVec 8) :
    operandInstr (.immediate base (doubled r)) = .opImm r base := by
  rw [operandInstr, half_doubled]

/-- Settles O2, row by row. -/
theorem decodingAnEncodingGivesTheInstruction : Obligations.DecodingAnEncodingGivesTheInstruction := by
  intro i h
  cases i with
  | mrs rd => exact congrArg Except.ok (decodeWord_encodeMrs rd)
  | msr rm => exact congrArg Except.ok (decodeWord_encodeMsr rm)
  | msrFlg d => exact congrArg Except.ok (decodeWord_encodeMsrFlg h)
  | and d => exact decodeAt_encodeDp .and h
  | eor d => exact decodeAt_encodeDp .eor h
  | sub d => exact decodeAt_encodeDp .sub h
  | rsb d => exact decodeAt_encodeDp .rsb h
  | add d => exact decodeAt_encodeDp .add h
  | adc d => exact decodeAt_encodeDp .adc h
  | sbc d => exact decodeAt_encodeDp .sbc h
  | rsc d => exact decodeAt_encodeDp .rsc h
  | tst d => exact decodeAt_encodeDp .tst h
  | teq d => exact decodeAt_encodeDp .teq h
  | cmp d => exact decodeAt_encodeDp .cmp h
  | cmn d => exact decodeAt_encodeDp .cmn h
  | orr d => exact decodeAt_encodeDp .orr h
  | mov d => exact decodeAt_encodeDp .mov h
  | bic d => exact decodeAt_encodeDp .bic h
  | mvn d => exact decodeAt_encodeDp .mvn h
  | opImm r base =>
    exact (decodeAt_encodeOp2 (immediate_doubled_wf base r)).trans (congrArg Except.ok (operandInstr_opImm r base))
  | lslImm n rm => exact decodeAt_encodeOp2 (d := .register (.immediate n) .logicalLeft rm) rfl
  | lsrImm n rm => exact decodeAt_encodeOp2 (d := .register (.immediate n) .logicalRight rm) rfl
  | asrImm n rm => exact decodeAt_encodeOp2 (d := .register (.immediate n) .arithmeticRight rm) rfl
  | rorImm n rm =>
    have hn : n ≠ 0#5 := by simpa [Instr.wf] using h
    have hrow : operandInstr (.register (.immediate n) .rotateRight rm) = .rorImm n rm := if_neg hn
    exact (decodeAt_encodeOp2 rfl).trans (congrArg Except.ok hrow)
  | rrx rm => exact decodeAt_encodeOp2 (d := .register (.immediate 0#5) .rotateRight rm) rfl
  | lslReg rs rm => exact decodeAt_encodeOp2 (d := .register (.register rs) .logicalLeft rm) rfl
  | lsrReg rs rm => exact decodeAt_encodeOp2 (d := .register (.register rs) .logicalRight rm) rfl
  | asrReg rs rm => exact decodeAt_encodeOp2 (d := .register (.register rs) .arithmeticRight rm) rfl
  | rorReg rs rm => exact decodeAt_encodeOp2 (d := .register (.register rs) .rotateRight rm) rfl
  | lsl => rfl
  | lsr => rfl
  | asr => rfl
  | ror => rfl

end Sys2Proof
end

section
/-! PROOFS. What a decoder answers: a well-formed instruction of its own port, in the row of the opcode table
that its bits match. -/

namespace Sys2Proof

/-! ## Well-formedness -/

theorem wf_psrInstr (k : PsrOperationKind) : (psrInstr k).wf = k.wf := by cases k <;> rfl

theorem wf_aluInstr (m : Mnemonic) (d : Op2) : (aluInstr m d).wf = d.wf := by cases m <;> rfl

theorem wf_shiftRegInstr (k : ShiftKind) (rs rm : RegIndex) : (shiftRegInstr k rs rm).wf = true := by
  cases k <;> rfl

/-- The constant 0 of ROR is the RRX row, so a ROR_IMM row has a constant of 1 to 31 (R141). -/
theorem wf_shiftImmInstr (k : ShiftKind) (n : BitVec 5) (rm : RegIndex) : (shiftImmInstr k n rm).wf = true := by
  cases k with
  | rotateRight =>
    unfold shiftImmInstr
    split_ifs with hn
    · rfl
    · simpa [Instr.wf] using hn
  | logicalLeft => rfl
  | logicalRight => rfl
  | arithmeticRight => rfl

theorem wf_operandInstr (d : Op2) : (operandInstr d).wf = true := by
  cases d with
  | immediate base shift => rfl
  | register op k rm =>
    cases op with
    | immediate n => exact wf_shiftImmInstr k n rm
    | register rs => exact wf_shiftRegInstr k rs rm

theorem wf_decodeWord (w : Word) : (decodeWord w).wf = true := by
  cases h : tryDecodePsr w with
  | some k => rw [decodeWord_of_tryDecodePsr h, wf_psrInstr, tryDecodePsr_wf h]
  | none => rw [decodeWord_of_no_psr h, wf_aluInstr, decodeOp2_wf]

theorem wf_decodeKind (c : BitVec 2) : (decodeKind c).wf = true := by
  unfold decodeKind
  generalize kindOf c = k
  cases k <;> rfl

/-! ## The rows of the opcode table as fields -/

theorem extractLsb'_bit (w : Word) (i : Nat) : w.extractLsb' i 1 = BitVec.ofBool (w.getLsbD i) := by
  refine BitVec.eq_of_getLsbD_eq fun j hj => ?_
  obtain rfl : j = 0 := by omega
  simp

/-- The row of a mnemonic fixes bits 24:21 (R59). -/
theorem row_aluInstr (m : Mnemonic) (d : Op2) : (aluInstr m d).row = ⟨0x01E00000#32, place m.opcode 21⟩ := by
  cases m <;> rfl

theorem aluInstr_row_accepts_iff (m : Mnemonic) (d : Op2) (w : Word) :
    (aluInstr m d).row.accepts w = true ↔ opcodeOf w = m.opcode := by
  have hmask : 0x01E00000#32 = fieldsMask [(21, 4)] := by decide
  rw [row_aluInstr, Pattern.accepts_iff_fields _ hmask (by cases m <;> decide)]
  simp [opcodeOf]

/-- The row of a shift by register fixes bit 25, the kind and bit 4 (R141). -/
theorem row_shiftRegInstr (k : ShiftKind) (rs rm : RegIndex) :
    (shiftRegInstr k rs rm).row = ⟨0x02000070#32, place k.code 5 ||| place 1#1 4⟩ := by
  cases k <;> rfl

/-- So does the row of a shift by constant, with the other value of bit 4 (R141). -/
theorem row_shiftImmInstr {k : ShiftKind} {n : BitVec 5} (rm : RegIndex) (h : k ≠ .rotateRight ∨ n ≠ 0#5) :
    (shiftImmInstr k n rm).row = ⟨0x02000070#32, place k.code 5⟩ := by
  cases k with
  | rotateRight =>
    have hn : n ≠ 0#5 := by simpa using h
    rw [shiftImmInstr, if_neg hn]; rfl
  | logicalLeft => rfl
  | logicalRight => rfl
  | arithmeticRight => rfl

theorem shiftRowMask_eq_fields : 0x02000070#32 = fieldsMask [(25, 1), (5, 2), (4, 1)] := by decide

theorem shiftRegInstr_row_accepts_iff (k : ShiftKind) (rs rm : RegIndex) (w : Word) :
    (shiftRegInstr k rs rm).row.accepts w = true ↔
      w.extractLsb' 25 1 = 0#1 ∧ w.extractLsb' 5 2 = k.code ∧ w.extractLsb' 4 1 = 1#1 := by
  rw [row_shiftRegInstr, Pattern.accepts_iff_fields _ shiftRowMask_eq_fields (by cases k <;> decide)]
  simp [BitVec.extractLsb'_or]

theorem shiftImmInstr_row_accepts_iff {k : ShiftKind} {n : BitVec 5} (rm : RegIndex)
    (h : k ≠ .rotateRight ∨ n ≠ 0#5) (w : Word) : (shiftImmInstr k n rm).row.accepts w = true ↔
      w.extractLsb' 25 1 = 0#1 ∧ w.extractLsb' 5 2 = k.code ∧ w.extractLsb' 4 1 = 0#1 := by
  rw [row_shiftImmInstr rm h, Pattern.accepts_iff_fields _ shiftRowMask_eq_fields (by cases k <;> decide)]
  simp

/-- The RRX row fixes the constant too (R141). -/
theorem rrx_row_accepts_iff (rm : RegIndex) (w : Word) : (Instr.rrx rm).row.accepts w = true ↔
    w.extractLsb' 25 1 = 0#1 ∧ w.extractLsb' 7 5 = 0#5 ∧
      w.extractLsb' 5 2 = ShiftKind.rotateRight.code ∧ w.extractLsb' 4 1 = 0#1 := by
  have hmask : 0x02000FF0#32 = fieldsMask [(25, 1), (7, 5), (5, 2), (4, 1)] := by decide
  rw [Instr.row, Pattern.accepts_iff_fields _ hmask (by decide)]
  simp [ShiftKind.code]

theorem opImm_row_accepts_iff (r : BitVec 4) (base : BitVec 8) (w : Word) :
    (Instr.opImm r base).row.accepts w = true ↔ w.extractLsb' 25 1 = 1#1 := by
  have hmask : 0x02000000#32 = fieldsMask [(25, 1)] := by decide
  rw [Instr.row, Pattern.accepts_iff_fields _ hmask (by decide)]
  simp

/-! ## The word a decoder reads lies in the row -/

theorem shiftImmInstr_row_accepts {w : Word} (h25 : w.getLsbD 25 = false) (h4 : w.getLsbD 4 = false) (rm : RegIndex) :
    (shiftImmInstr (kindOf (w.extractLsb' 5 2)) (w.extractLsb' 7 5) rm).row.accepts w = true := by
  have h25' : w.extractLsb' 25 1 = 0#1 := by rw [extractLsb'_bit, h25]; rfl
  have h4' : w.extractLsb' 4 1 = 0#1 := by rw [extractLsb'_bit, h4]; rfl
  by_cases hrrx : kindOf (w.extractLsb' 5 2) = .rotateRight ∧ w.extractLsb' 7 5 = 0#5
  · obtain ⟨hk, hn⟩ := hrrx
    rw [hk, hn, shiftImmInstr, if_pos rfl, rrx_row_accepts_iff, ← hk, code_kindOf]
    exact ⟨h25', hn, rfl, h4'⟩
  · rw [shiftImmInstr_row_accepts_iff rm (not_and_or.mp hrrx), code_kindOf]
    exact ⟨h25', rfl, h4'⟩

theorem decodeOperandForm_row_accepts (w : Word) : (decodeOperandForm w).row.accepts w = true := by
  cases h25 : w.getLsbD 25 with
  | true => rw [decodeOperandForm_immediate h25, opImm_row_accepts_iff, extractLsb'_bit, h25]; rfl
  | false =>
    cases h4 : w.getLsbD 4 with
    | true =>
      rw [decodeOperandForm_shiftByReg h25 h4, shiftRegInstr_row_accepts_iff, code_kindOf, extractLsb'_bit,
        extractLsb'_bit, h25, h4]
      exact ⟨rfl, rfl, rfl⟩
    | false => rw [decodeOperandForm_shiftByImm h25 h4]; exact shiftImmInstr_row_accepts h25 h4 _

theorem decodeWord_row_accepts (w : Word) : (decodeWord w).row.accepts w = true := by
  obtain ⟨hp, h⟩ | ⟨hp, h⟩ | ⟨hp, h⟩ | ⟨-, h⟩ := tryDecodePsr_cases w
  · rw [decodeWord_of_tryDecodePsr h]; exact hp
  · rw [decodeWord_of_tryDecodePsr h]; exact hp
  · rw [decodeWord_of_tryDecodePsr h]; exact hp
  · rw [decodeWord_of_no_psr h, aluInstr_row_accepts_iff, opcode_classify]

theorem row_decodeKind : ∀ c : BitVec 2, (decodeKind c).row = ⟨0x00000003#32, place c 0⟩ := by decide

theorem decodeKind_row_accepts (w : Word) : (decodeKind (w.extractLsb' 0 2)).row.accepts w = true := by
  have hmask : 0x00000003#32 = fieldsMask [(0, 2)] := by decide
  have hvalue : ∀ c : BitVec 2, place c 0 &&& 0x00000003#32 = place c 0 := by decide
  rw [row_decodeKind, Pattern.accepts_iff_fields _ hmask (hvalue _)]
  simp

/-- Settles O3, decoder by decoder. -/
theorem decodedInstructionLiesInItsTableRow : Obligations.DecodedInstructionLiesInItsTableRow := by
  intro c w i h
  cases c with
  | decodeWord => cases h; exact ⟨wf_decodeWord w, call_decodeWord w, decodeWord_row_accepts w⟩
  | decodeOp2 =>
    cases h
    refine ⟨?_, call_decodeOperandForm w, decodeOperandForm_row_accepts w⟩
    rw [decodeOperandForm_eq_operandInstr, wf_operandInstr]
  | shift =>
    rw [decodeAt] at h
    split_ifs at h
    cases h
    exact ⟨wf_decodeKind _, call_decodeKind _, decodeKind_row_accepts w⟩
  | tryDecodePsr => cases h
  | classify => cases h
  | classifyInt n => cases h
  | shiftInt n => cases h

/-- Settles O1, by evaluation of the three decoders on the spec's words. -/
theorem specWordsDecodeToTheirInstructions : Obligations.SpecWordsDecodeToTheirInstructions := by
  unfold Obligations.SpecWordsDecodeToTheirInstructions
  decide

end Sys2Proof
end

section
/-! PROOFS. When an evaluation stops, which answer the decode flow gives, and which instruction a step runs
(R53, R63, R171, R193). -/

namespace Sys2Proof.Machine

/-! ## Stopping -/

theorem stops_of_fault {s : State} {f : Fault} (h : step s = .fault f) : s.Stops := by
  rw [State.Stops, h]; trivial

theorem not_stops_of_next {s t : State} (h : step s = .next t) : ¬ s.Stops := by
  rw [State.Stops, h]; exact not_false

/-- A state that does not stop goes on: the spec refuses nothing (R63). -/
theorem next_of_not_stops {s : State} (h : ¬ s.Stops) : ∃ t, step s = .next t := by
  obtain ⟨o, e⟩ | ⟨n, -, -, e⟩ | ⟨n, -, -, e⟩ := step_cases s
  · exact ⟨_, e⟩
  · exact absurd (stops_of_fault e) h
  · exact absurd (stops_of_fault e) h

theorem step_ne_refused (s : State) (r : Refusal) : step s ≠ .refused r := by
  obtain ⟨o, e⟩ | ⟨n, -, -, e⟩ | ⟨n, -, -, e⟩ := step_cases s <;> rw [e] <;> nofun

theorem step_classifyInt {s : State} {n : Nat} (hc : s.call = .classifyInt n) : step s = s.runClassifyInt n := by
  simp only [step, hc]

theorem step_shiftInt {s : State} {n : Nat} (hc : s.call = .shiftInt n) : step s = s.runShiftInt n := by
  simp only [step, hc]

/-- The two violations of R171 are the only reasons to stop. -/
theorem stops_iff (s : State) :
    s.Stops ↔ (∃ n, s.call = .classifyInt n ∧ 0xF < n) ∨ (∃ n, s.call = .shiftInt n ∧ 3 < n) := by
  constructor
  · intro h
    obtain ⟨o, e⟩ | ⟨n, hc, hn, -⟩ | ⟨n, hc, hn, -⟩ := step_cases s
    · exact absurd h (not_stops_of_next e)
    · exact .inl ⟨n, hc, hn⟩
    · exact .inr ⟨n, hc, hn⟩
  · rintro (⟨n, hc, hn⟩ | ⟨n, hc, hn⟩)
    · exact stops_of_fault ((step_classifyInt hc).trans (runClassifyInt_outside s hn))
    · exact stops_of_fault ((step_shiftInt hc).trans (runShiftInt_outside s hn))

/-- Settles O30: an instruction emits an output, and a step stops by R171 or emits one too. -/
theorem onlyInvariantViolationsStop : Obligations.OnlyInvariantViolationsStop :=
  ⟨fun i s => let ⟨o, h⟩ := exec_emits i s; ⟨s.emit o, h⟩, stops_iff, fun _ => next_of_not_stops, step_ne_refused⟩

/-! ## The decode flow of R53 -/

theorem step_decodeWord {s t : State} (hc : s.call = .decodeWord) (h : step s = .next t) :
    t.out = .decoded (decodeWordAnswer s.word) := by
  rw [step_of_answer_ok (answer_decodeWord hc)] at h
  cases h; rfl

theorem decodeWordAnswer_is_psr_iff (w : Word) :
    (∃ k, decodeWordAnswer w = .psrTransfer k) ↔ ∃ k, tryDecodePsr w = some k := by
  obtain ⟨k, hk, h⟩ | ⟨hk, h⟩ := decodeWordAnswer_cases w <;> simp [hk, h]

theorem decodeWordAnswer_is_alu_iff (w : Word) :
    (∃ m f d, decodeWordAnswer w = .alu m f d) ↔ tryDecodePsr w = none := by
  obtain ⟨k, hk, h⟩ | ⟨hk, h⟩ := decodeWordAnswer_cases w <;> simp [hk, h]

/-- Settles O38: the two branches of the flow are those of TryDecodePsr, which answers none exactly when no
pattern accepts the word. -/
theorem aluAnswerOnlyWhenNoPsrPatternMatches : Obligations.AluAnswerOnlyWhenNoPsrPatternMatches := by
  intro s t hc h
  simp only [step_decodeWord hc h, Output.decoded.injEq]
  exact ⟨(decodeWordAnswer_is_psr_iff s.word).trans (tryDecodePsr_eq_some_iff s.word),
    (decodeWordAnswer_is_alu_iff s.word).trans (tryDecodePsr_eq_none_iff s.word)⟩

/-! ## The instruction a step runs -/

/-- A code on the 2-bit kind port decodes to the row of its kind (R58). -/
theorem decodeAt_shift (c : BitVec 2) : decodeAt .shift (c.setWidth 32) = .ok (decodeKind c) := by
  have hlt : (c.setWidth 32).toNat < 4 := by rw [BitVec.toNat_setWidth]; omega
  have hport : (c.setWidth 32).extractLsb' 0 2 = c := by revert c; decide
  rw [decodeAt, if_pos hlt, hport]

/-- Settles O36, call by call. -/
theorem stepRunsTheDecodedInstruction : Obligations.StepRunsTheDecodedInstruction := by
  intro s
  refine ⟨?_, ?_, fun hc => step_of_answer_ok (answer_tryDecodePsr hc),
    fun hc => step_of_answer_ok (answer_classify hc), fun o hc => ?_, fun c hc => ?_⟩
  · rintro i (hc | hc) hd <;> rw [hc] at hd <;> cases hd <;> simp only [step, hc]
  · intro i hc hd
    rw [decodeAt_shift] at hd
    cases hd
    simp only [step, hc]
  · rw [step_classifyInt hc, runClassifyInt_inside s (by omega), BitVec.ofNat_toNat, BitVec.setWidth_eq]; rfl
  · rw [step_shiftInt hc, runShiftInt_inside s (by omega), BitVec.ofNat_toNat, BitVec.setWidth_eq]; rfl

end Sys2Proof.Machine
end

section
/-! PROOFS. The shift by a constant (R62, R90): a constant of 1 to 31 is the amount, and 0 has a meaning of
its own for each kind. -/

namespace Sys2Proof.Machine

/-- The constant as the engine's amount: nothing is lost, and only 0 is 0. -/
theorem toNat_setWidth_constant (n : BitVec 5) : (n.setWidth 32).toNat = n.toNat := by
  rw [BitVec.toNat_setWidth, Nat.mod_eq_of_lt (by omega)]

theorem one_le_toNat_constant {n : BitVec 5} (hn : n ≠ 0#5) : 1 ≤ (n.setWidth 32).toNat := by
  rw [toNat_setWidth_constant]
  exact Nat.one_le_iff_ne_zero.mpr fun h => hn (BitVec.eq_of_toNat_eq h)

theorem toNat_constant_le_31 (n : BitVec 5) : (n.setWidth 32).toNat ≤ 31 := by
  rw [toNat_setWidth_constant]; omega

/-! ## Constants of 1 to 31 -/

theorem shiftedByImm_logicalLeft {n : BitVec 5} (hn : n ≠ 0#5) (v : Word) (c : Bool) :
    shiftedByImm .logicalLeft n v c = ⟨v <<< n.toNat, some (v.getLsbD (32 - n.toNat))⟩ := by
  rw [shiftedByImm, shift_logicalLeft,
    shiftLSL_mid v c (one_le_toNat_constant hn) (Nat.le_succ_of_le (toNat_constant_le_31 n)),
    toNat_setWidth_constant, lsl32_eq, operandOf_rawShift, lastBitOutLeft]

theorem shiftedByImm_logicalRight {n : BitVec 5} (hn : n ≠ 0#5) (v : Word) (c : Bool) :
    shiftedByImm .logicalRight n v c = ⟨v >>> n.toNat, some (v.getLsbD (n.toNat - 1))⟩ := by
  rw [shiftedByImm, shift_logicalRight,
    shiftLSR_mid v (one_le_toNat_constant hn) (Nat.le_succ_of_le (toNat_constant_le_31 n)),
    toNat_setWidth_constant, lsr32_eq, operandOf_rawShift, lastBitOutRight]

theorem shiftedByImm_arithmeticRight {n : BitVec 5} (hn : n ≠ 0#5) (v : Word) (c : Bool) :
    shiftedByImm .arithmeticRight n v c = ⟨v.sshiftRight n.toNat, some (v.getLsbD (n.toNat - 1))⟩ := by
  rw [shiftedByImm, shift_arithmeticRight, shiftASR_mid v (one_le_toNat_constant hn) (toNat_constant_le_31 n),
    toNat_setWidth_constant, asr32_eq, operandOf_rawShift, lastBitOutRight]

theorem shiftedByImm_rotateRight {n : BitVec 5} (hn : n ≠ 0#5) (v : Word) (c : Bool) :
    shiftedByImm .rotateRight n v c = ⟨v.rotateRight n.toNat, some (v.getLsbD (n.toNat - 1))⟩ := by
  have hmod : (n.setWidth 32).toNat % 32 = n.toNat := by
    rw [Nat.mod_eq_of_lt (Nat.lt_succ_of_le (toNat_constant_le_31 n)), toNat_setWidth_constant]
  have hne : (n.setWidth 32).toNat % 32 ≠ 0 := by
    rw [hmod, ← toNat_setWidth_constant, ← Nat.one_le_iff_ne_zero]; exact one_le_toNat_constant hn
  rw [shiftedByImm, shift_rotateRight, shiftRotate_nonzero v c (ne_zero_of_pos (one_le_toNat_constant hn)),
    shiftROR_remainder v hne, hmod, ror32_eq v n.isLt, operandOf_rawShift, lastBitOutRight]

/-! ## The constant 0 -/

theorem shiftedByImm_logicalLeft_zero (v : Word) (c : Bool) : shiftedByImm .logicalLeft 0#5 v c = ⟨v, some c⟩ := by
  rw [shiftedByImm, shift_logicalLeft, BitVec.setWidth_zero, shiftLSL_zero, operandOf_rawShift]

theorem shiftedByImm_logicalRight_zero (v : Word) (c : Bool) :
    shiftedByImm .logicalRight 0#5 v c = ⟨v >>> 32, some (v.getLsbD 31)⟩ := by
  rw [shiftedByImm, shift_logicalRight, BitVec.setWidth_zero, shiftLSR_zero, operandOf_rawShift,
    BitVec.ushiftRight_eq_zero (Nat.le_refl 32), signBit]

theorem shiftedByImm_arithmeticRight_zero (v : Word) (c : Bool) :
    shiftedByImm .arithmeticRight 0#5 v c = ⟨v.sshiftRight 32, some (v.getLsbD 31)⟩ := by
  rw [shiftedByImm, shift_arithmeticRight, BitVec.setWidth_zero, shiftASR_outside v (.inl rfl), operandOf_rawShift,
    replicate32_signBit, signBit]

theorem shiftedByImm_rotateRight_zero (v : Word) (c : Bool) :
    shiftedByImm .rotateRight 0#5 v c = ⟨BitVec.ofBool c ++ v.extractLsb' 1 31, some (v.getLsbD 0)⟩ := by
  rw [shiftedByImm, shift_rotateRight, BitVec.setWidth_zero, shiftRotate_zero, shiftRRX_eq, operandOf_rawShift]

/-! ## The rows -/

/-- A shift-by-constant row hands out its descriptor beside what the constant resolves to (R138). -/
theorem exec_shiftImmInstr_resolved {k : ShiftKind} {n : BitVec 5} {i : Instr} {r : Operand} (s : State)
    (rm : RegIndex) (hi : shiftImmInstr k n rm = i) (hr : shiftedByImm k n s.x[rm.toNat] s.carryIn = r) :
    exec i s = .next { s with out := .operand (.register (.immediate n) k rm) r } := by
  rw [← hi, exec_shiftImmInstr, ← hr]; rfl

/-- Settles O17: each row is that of its kind and constant, and each kind resolves its constants by R62. -/
theorem constantShiftsResolveByTheirEncodings : Obligations.ConstantShiftsResolveByTheirEncodings := by
  rintro s n rm v rfl
  refine ⟨fun hn => ⟨?_, ?_, ?_, ?_⟩, ?_, ?_, ?_, ?_⟩
  · exact exec_shiftImmInstr_resolved s rm rfl (shiftedByImm_logicalLeft hn _ _)
  · exact exec_shiftImmInstr_resolved s rm rfl (shiftedByImm_logicalRight hn _ _)
  · exact exec_shiftImmInstr_resolved s rm rfl (shiftedByImm_arithmeticRight hn _ _)
  · exact exec_shiftImmInstr_resolved s rm (if_neg hn) (shiftedByImm_rotateRight hn _ _)
  · exact exec_shiftImmInstr_resolved s rm rfl (shiftedByImm_logicalLeft_zero _ _)
  · exact exec_shiftImmInstr_resolved s rm rfl (shiftedByImm_logicalRight_zero _ _)
  · exact exec_shiftImmInstr_resolved s rm rfl (shiftedByImm_arithmeticRight_zero _ _)
  · exact exec_shiftImmInstr_resolved s rm rfl (shiftedByImm_rotateRight_zero _ _)

end Sys2Proof.Machine
end

section
/-! PROOFS. The canonical text (R66 to R74). -/

namespace Sys2Proof.Machine

/-- The value of an immediate is Lean's own rotation of its base (R132). -/
theorem immValue_eq (base : BitVec 8) (rotation : BitVec 5) :
    immValue base rotation = (base.setWidth 32).rotateRight rotation.toNat :=
  ror32_eq _ rotation.isLt

theorem renderOp2_immediate (base : BitVec 8) (rotation : BitVec 5) :
    renderOp2 (.immediate base rotation) = "#" ++ Nat.repr ((base.setWidth 32).rotateRight rotation.toNat).toNat := by
  rw [renderOp2, immValue_eq]

/-- Settles O45, and the example of R71 by evaluation. -/
theorem immediateTextIsTheRotatedValue : Obligations.ImmediateTextIsTheRotatedValue :=
  ⟨renderOp2_immediate, by decide⟩

theorem renderOp2_shiftImm {n : BitVec 5} (k : ShiftKind) (rm : RegIndex) (hn : n ≠ 0#5) :
    renderOp2 (.register (.immediate n) k rm) =
      renderReg rm ++ ", " ++ renderKind k ++ " #" ++ Nat.repr n.toNat := by
  rw [renderOp2]; exact if_neg hn

/-- Settles O44: the texts of the zero constants and of a register amount are their definitions. -/
theorem registerOperandTextByForm : Obligations.RegisterOperandTextByForm :=
  ⟨fun _ => ⟨rfl, rfl, rfl, rfl⟩, fun _ k rm => renderOp2_shiftImm k rm, fun _ _ _ => rfl, by decide, by decide, by decide⟩

/-! ## The text of a state -/

/-- Only a PSR operation has the selector of the word in its text (D6, R73). -/
theorem text_eq_of_out_eq {s t : State} (hout : s.out = t.out)
    (h : ∀ k, s.out ≠ .decoded (.psrTransfer k) ∧ s.out ≠ .psr (some k)) : s.text = t.text := by
  cases ho : s.out with
  | decoded d =>
    cases d with
    | psrTransfer k => exact absurd ho (h k).1
    | alu m f d => simp only [State.text, ← hout, ho]
  | psr o =>
    cases o with
    | some k => exact absurd ho (h k).2
    | none => simp only [State.text, ← hout, ho]
  | classified m f => simp only [State.text, ← hout, ho]
  | operand d r => simp only [State.text, ← hout, ho]
  | shifted r => simp only [State.text, ← hout, ho]

/-- Settles O47: the text is read from the output and, for a PSR operation, the word. -/
theorem textIsAFunctionOfTheDecodedData : Obligations.TextIsAFunctionOfTheDecodedData := by
  refine fun s t hout => ⟨fun hw => ?_, text_eq_of_out_eq hout, fun m f d ho => ?_, fun m f ho => ?_⟩
  · rw [State.text, State.text, hout, hw]
  · rw [State.text, ho]
  · rw [State.text, ho]

/-- Settles O46, from the tables of R68, R69, R72 and R73. -/
theorem namesAndPsrTextAsListed : Obligations.NamesAndPsrTextAsListed :=
  ⟨rfl, rfl, ⟨rfl, rfl⟩, fun _ _ _ => ⟨rfl, rfl, rfl⟩⟩

end Sys2Proof.Machine
end

section
/-! SUPPORT. The Shift Engine by kind and regime (R90), in Lean's own operations on words: the record of each
regime, and where two regimes give the same record. -/

namespace Sys2Proof.Machine

/-! ## LSL (R81) -/

theorem shift_logicalLeft_zero (v : Word) (c : Bool) : shift .logicalLeft 0#32 v c = rawShift v c :=
  shiftLSL_zero v c

theorem shift_logicalLeft_mid {a : Word} (v : Word) (c : Bool) (h : 1 ≤ a.toNat) (h' : a.toNat ≤ 32) :
    shift .logicalLeft a v c = rawShift (v <<< a.toNat) (v.getLsbD (32 - a.toNat)) := by
  rw [shift_logicalLeft, shiftLSL_mid v c h h', lsl32_eq, lastBitOutLeft]

theorem shift_logicalLeft_above {a : Word} (v : Word) (c : Bool) (h : 33 ≤ a.toNat) :
    shift .logicalLeft a v c = rawShift 0#32 false :=
  shiftLSL_above v c h

/-! ## LSR (R82) -/

theorem shift_logicalRight_mid {a : Word} (v : Word) (c : Bool) (h : 1 ≤ a.toNat) (h' : a.toNat ≤ 32) :
    shift .logicalRight a v c = rawShift (v >>> a.toNat) (v.getLsbD (a.toNat - 1)) := by
  rw [shift_logicalRight, shiftLSR_mid v h h', lsr32_eq, lastBitOutRight]

/-- The amounts 0 and 32 leave nothing of the value and hand out its top bit. -/
theorem shift_logicalRight_whole {a : Word} (v : Word) (c : Bool) (h : a.toNat = 0 ∨ a.toNat = 32) :
    shift .logicalRight a v c = rawShift 0#32 (v.getLsbD 31) := by
  rcases h with h | h
  · rw [BitVec.eq_of_toNat_eq (y := 0#32) h, shift_logicalRight, shiftLSR_zero, signBit]
  · rw [shift_logicalRight_mid v c (by omega) (by omega), h, BitVec.ushiftRight_eq_zero (Nat.le_refl 32)]

theorem shift_logicalRight_above {a : Word} (v : Word) (c : Bool) (h : 33 ≤ a.toNat) :
    shift .logicalRight a v c = rawShift 0#32 false :=
  shiftLSR_above v h

/-! ## ASR (R83) -/

theorem shift_arithmeticRight_mid {a : Word} (v : Word) (c : Bool) (h : 1 ≤ a.toNat) (h' : a.toNat ≤ 31) :
    shift .arithmeticRight a v c = rawShift (v.sshiftRight a.toNat) (v.getLsbD (a.toNat - 1)) := by
  rw [shift_arithmeticRight, shiftASR_mid v h h', asr32_eq, lastBitOutRight]

theorem shift_arithmeticRight_outside {a : Word} (v : Word) (c : Bool) (h : a.toNat = 0 ∨ 32 ≤ a.toNat) :
    shift .arithmeticRight a v c = rawShift (replicate32 (v.getLsbD 31)) (v.getLsbD 31) :=
  shiftASR_outside v h

/-- Outside 1 to 31 the amount makes no difference. -/
theorem shift_arithmeticRight_congr {a b : Word} (v : Word) (c : Bool) (ha : a.toNat = 0 ∨ 32 ≤ a.toNat)
    (hb : b.toNat = 0 ∨ 32 ≤ b.toNat) : shift .arithmeticRight a v c = shift .arithmeticRight b v c := by
  rw [shift_arithmeticRight_outside v c ha, shift_arithmeticRight_outside v c hb]

/-! ## ROR (R84) and RRX (R85) -/

theorem shift_rotateRight_zero (v : Word) (c : Bool) :
    shift .rotateRight 0#32 v c = rawShift (BitVec.ofBool c ++ v.extractLsb' 1 31) (v.getLsbD 0) := by
  rw [shift_rotateRight, shiftRotate_zero, shiftRRX_eq]

theorem shift_rotateRight_multiple {a : Word} (v : Word) (c : Bool) (h0 : a.toNat ≠ 0) (h : a.toNat % 32 = 0) :
    shift .rotateRight a v c = rawShift v (v.getLsbD 31) := by
  rw [shift_rotateRight, shiftRotate_nonzero v c (ne_zero_of_pos (by omega)), shiftROR_multiple v h, signBit]

theorem shift_rotateRight_remainder {a : Word} (v : Word) (c : Bool) (h : a.toNat % 32 ≠ 0) :
    shift .rotateRight a v c = rawShift (v.rotateRight (a.toNat % 32)) (v.getLsbD (a.toNat % 32 - 1)) := by
  rw [shift_rotateRight, shiftRotate_nonzero v c (ne_zero_of_pos (by omega)), shiftROR_remainder v h,
    ror32_eq v (Nat.mod_lt _ (by decide)), lastBitOutRight]

/-- Above 0 a rotation reads its amount modulo 32 only. -/
theorem shift_rotateRight_congr {a b : Word} (v : Word) (c : Bool) (ha : a.toNat ≠ 0) (hb : b.toNat ≠ 0)
    (h : a.toNat % 32 = b.toNat % 32) : shift .rotateRight a v c = shift .rotateRight b v c := by
  rcases eq_or_ne (b.toNat % 32) 0 with hm | hm
  · rw [shift_rotateRight_multiple v c ha (h.trans hm), shift_rotateRight_multiple v c hb hm]
  · rw [shift_rotateRight_remainder v c (h ▸ hm), shift_rotateRight_remainder v c hm, h]

/-- The bit that leaves a rotation at the bottom enters at the top. -/
theorem getLsbD_rotateRight_top (v : Word) {n : Nat} (h : n ≠ 0) (h' : n < 32) :
    (v.rotateRight n).getLsbD 31 = v.getLsbD (n - 1) := by
  rw [← ror32_eq v h', getLsbD_ror32 v (by omega) (by decide), show (31 + n) % 32 = n - 1 by omega]

/-! ## The rows -/

/-- A kind row hands out the engine's record for its kind and changes nothing else. -/
theorem exec_of_shift_eq {s : State} {k : ShiftKind} {i : Instr} {r : Word} {co : Bool}
    (h : shift k s.shAmount s.shValue s.carryIn = rawShift r co) (hi : decodeKind k.code = i) :
    exec i s = .next { s with out := .shifted ⟨r, co, false, false, false⟩ } := by
  rw [← hi, exec_decodeKind, kindOf_code, h]; rfl

end Sys2Proof.Machine
end

section
/-! PROOFS. Where the engine reads the carry-in (R92): the result in RRX only, the carry-out in LSL by 0
only. -/

namespace Sys2Proof.Machine

theorem shift_result_carry_irrelevant {k : ShiftKind} {a : Word} (v : Word) (c c' : Bool)
    (h : ¬ (k = .rotateRight ∧ a = 0#32)) : (shift k a v c).result = (shift k a v c').result := by
  rcases eq_or_ne a 0#32 with rfl | ha
  · cases k with
    | logicalLeft => simp only [shift_logicalLeft_zero, rawShift_result]
    | logicalRight => rfl
    | arithmeticRight => rfl
    | rotateRight => exact absurd ⟨rfl, rfl⟩ h
  · rw [shift_carry_irrelevant v c c' (.inl ha)]

theorem shift_carryOut_carry_irrelevant {k : ShiftKind} {a : Word} (v : Word) (c c' : Bool)
    (h : ¬ (k = .logicalLeft ∧ a = 0#32)) : (shift k a v c).carryOut = (shift k a v c').carryOut := by
  rcases eq_or_ne a 0#32 with rfl | ha
  · cases k with
    | logicalLeft => exact absurd ⟨rfl, rfl⟩ h
    | logicalRight => rfl
    | arithmeticRight => rfl
    | rotateRight => simp only [shift_rotateRight_zero, rawShift_carryOut]
  · rw [shift_carry_irrelevant v c c' (.inl ha)]

/-- The carry-in is the top bit of RRX. -/
theorem getLsbD_rrx_top (v : Word) (c : Bool) : (shift .rotateRight 0#32 v c).result.getLsbD 31 = c := by
  rw [shift_rotateRight_zero, rawShift_result, BitVec.getLsbD_append]
  simp

theorem rrx_result_ne (v : Word) :
    (shift .rotateRight 0#32 v true).result ≠ (shift .rotateRight 0#32 v false).result := fun h => by
  have htop := congrArg (BitVec.getLsbD · 31) h
  simp only [getLsbD_rrx_top] at htop
  cases htop

/-- Settles O25: outside the two cases the carry-in changes nothing, in each of them it is handed on. -/
theorem carryInIsReadInTwoCasesOnly : Obligations.CarryInIsReadInTwoCasesOnly := by
  refine ⟨fun _ _ => shift_result_carry_irrelevant, fun _ _ => shift_carryOut_carry_irrelevant, rrx_result_ne,
    fun v => ?_⟩
  simp only [shift_logicalLeft_zero, rawShift_carryOut]
  decide

/-- A shift whose carry-out is always the carry-in is LSL by 0. -/
theorem eq_logicalLeft_zero_of_carryOut {k : ShiftKind} {a : Word} (v : Word)
    (h : ∀ c, (shift k a v c).carryOut = c) : k = .logicalLeft ∧ a = 0#32 := by
  by_contra hne
  have hsame := shift_carryOut_carry_irrelevant v true false hne
  rw [h, h] at hsame
  cases hsame

end Sys2Proof.Machine
end

section
/-! PROOFS. The five operations on the engine's ports, regime by regime (R81 to R85). -/

namespace Sys2Proof.Machine

/-! ## LSL -/

/-- The carry of a left shift by 1 to 32 is bit 32 of the 64-bit intermediate (R81). -/
theorem getLsbD_wide_shiftLeft (v : Word) {a : Nat} (h : a ≤ 32) :
    (v.setWidth 64 <<< a).getLsbD 32 = v.getLsbD (32 - a) := by
  rw [BitVec.getLsbD_shiftLeft, BitVec.getLsbD_setWidth]
  simp [show ¬ 32 < a by omega, show 32 - a < 64 by omega]

theorem shiftLeft_31 (v : Word) : v <<< 31 = BitVec.ofBool (v.getLsbD 0) ++ 0#31 := by
  apply BitVec.eq_of_getLsbD_eq
  intro i hi
  rw [BitVec.getLsbD_shiftLeft, BitVec.getLsbD_append]
  rcases Nat.lt_or_ge i 31 with h | h
  · simp [h]
  · obtain rfl : i = 31 := by omega
    simp

/-- Only LSL by 0 passes value and carry-in through (R81, R89). -/
theorem shift_identity_iff (k : ShiftKind) (a : Word) :
    (∀ (v : Word) (c : Bool), (shift k a v c).result = v ∧ (shift k a v c).carryOut = c) ↔
      k = .logicalLeft ∧ a = 0#32 := by
  constructor
  · exact fun h => eq_logicalLeft_zero_of_carryOut 0#32 fun c => (h 0#32 c).2
  · rintro ⟨rfl, rfl⟩ v c
    rw [shift_logicalLeft_zero]
    exact ⟨rfl, rfl⟩

/-- Settles O20, regime by regime. -/
theorem lslFollowsItsRegimes : Obligations.LslFollowsItsRegimes := by
  refine ⟨?_, shift_identity_iff, by decide⟩
  rintro s v a rfl rfl
  refine ⟨fun h => ?_, fun h h' => ⟨?_, ?_⟩, fun h => ?_, fun h => ?_, fun h => ?_⟩
  · refine exec_of_shift_eq (k := .logicalLeft) ?_ rfl
    rw [BitVec.eq_of_toNat_eq (y := 0#32) h, shift_logicalLeft_zero]
  · exact exec_of_shift_eq (shift_logicalLeft_mid _ _ h h') rfl
  · exact (getLsbD_wide_shiftLeft _ h').symm
  · rw [h]; exact ⟨shiftLeft_31 _, rfl⟩
  · rw [h]; exact ⟨BitVec.shiftLeft_eq_zero (Nat.le_refl 32), rfl⟩
  · exact exec_of_shift_eq (shift_logicalLeft_above _ _ h) rfl

/-! ## LSR -/

theorem getLsbD_ushiftRight_of_ge (v : Word) {a k : Nat} (h : 32 ≤ a + k) : (v >>> a).getLsbD k = false := by
  rw [BitVec.getLsbD_ushiftRight, BitVec.getLsbD_of_ge v _ h]

theorem ushiftRight_31 (v : Word) : v >>> 31 = (BitVec.ofBool (v.getLsbD 31)).setWidth 32 := by
  apply BitVec.eq_of_getLsbD_eq
  intro i hi
  rw [BitVec.getLsbD_setWidth]
  rcases Nat.eq_zero_or_pos i with rfl | h
  · simp
  · rw [getLsbD_ushiftRight_of_ge v (by omega), BitVec.getLsbD_of_ge _ i (by omega), Bool.and_false]

/-- Settles O21, regime by regime. -/
theorem lsrFollowsItsRegimes : Obligations.LsrFollowsItsRegimes := by
  refine ⟨?_, by decide, by decide⟩
  rintro s v a rfl rfl
  refine ⟨fun h => ?_, fun h h' => ⟨?_, fun k hk => ?_⟩, fun h => ?_, fun h => ?_⟩
  · exact exec_of_shift_eq (shift_logicalRight_whole _ _ h) rfl
  · exact exec_of_shift_eq (shift_logicalRight_mid _ _ h h') rfl
  · exact getLsbD_ushiftRight_of_ge _ (by omega)
  · rw [h]; exact ⟨ushiftRight_31 _, rfl⟩
  · exact exec_of_shift_eq (shift_logicalRight_above _ _ h) rfl

/-! ## ASR -/

theorem sshiftRight_31 (v : Word) : v.sshiftRight 31 = replicate32 (v.getLsbD 31) := by
  apply BitVec.eq_of_getLsbD_eq
  intro i hi
  rw [← asr32_eq, getLsbD_asr32 v 31 hi, getLsbD_replicate32, decide_eq_true hi, Bool.true_and]
  split_ifs with h
  · rw [show i + 31 = 31 by omega]
  · rfl

/-- Settles O22, regime by regime. -/
theorem asrFollowsItsRegimes : Obligations.AsrFollowsItsRegimes := by
  refine ⟨?_, by decide, by decide⟩
  rintro s v a rfl rfl
  refine ⟨fun h h' => ?_, fun h => ?_, fun h => ?_⟩
  · exact exec_of_shift_eq (shift_arithmeticRight_mid _ _ h h') rfl
  · exact exec_of_shift_eq (shift_arithmeticRight_outside _ _ h) rfl
  · rw [h]; exact ⟨sshiftRight_31 _, rfl⟩

/-! ## ROR -/

/-- Settles O23: a multiple of 32, or the rotation by the remainder. -/
theorem rorFollowsItsRegimes : Obligations.RorFollowsItsRegimes := by
  refine ⟨?_, fun v c => ⟨?_, ?_⟩, by decide, by decide⟩
  · rintro s v a rfl rfl h0
    refine ⟨fun h => ?_, fun h => ⟨?_, ?_⟩⟩
    · exact exec_of_shift_eq (shift_rotateRight_multiple _ _ h0 h) rfl
    · exact exec_of_shift_eq (shift_rotateRight_remainder _ _ h) rfl
    · exact (getLsbD_rotateRight_top _ h (Nat.mod_lt _ (by decide))).symm
  · exact shift_rotateRight_congr v c (by decide) (by decide) rfl
  · exact shift_rotateRight_congr v c (by decide) (by decide) rfl

/-! ## RRX -/

/-- The carry-out above the result of RRX is the 33-bit carry-in and value, rotated by one place (R85). -/
theorem rrx_eq_rotateRight (v : Word) (c : Bool) :
    BitVec.ofBool (v.getLsbD 0) ++ (shift .rotateRight 0#32 v c).result = (BitVec.ofBool c ++ v).rotateRight 1 := by
  apply BitVec.eq_of_getLsbD_eq
  intro i hi
  rw [shift_rotateRight_zero, rawShift_result, BitVec.getLsbD_append, BitVec.getLsbD_rotateRight,
    BitVec.getLsbD_append (x := BitVec.ofBool c) (y := v.extractLsb' 1 31)]
  simp only [BitVec.getLsbD_append]
  obtain h | rfl | rfl : i < 31 ∨ i = 31 ∨ i = 32 := by omega
  · simp [h, show i < 32 by omega, show 1 + i < 32 by omega]
  · simp
  · simp

/-- RRX is the only shift whose result reads the carry-in (R85, R92). -/
theorem shift_result_reads_carry_iff (k : ShiftKind) (a : Word) :
    (∃ (v : Word) (c c' : Bool), (shift k a v c).result ≠ (shift k a v c').result) ↔
      k = .rotateRight ∧ a = 0#32 := by
  constructor
  · rintro ⟨v, c, c', h⟩
    by_contra hne
    exact h (shift_result_carry_irrelevant v c c' hne)
  · rintro ⟨rfl, rfl⟩
    exact ⟨0#32, true, false, rrx_result_ne 0#32⟩

/-- Settles O24: the record of RRX, read as 33 bits. -/
theorem rrxRotatesTheCarryIn : Obligations.RrxRotatesTheCarryIn := by
  refine ⟨fun s h => ?_, shift_result_reads_carry_iff, fun base => ?_, by decide, by decide⟩
  · have hrec := shift_rotateRight_zero s.shValue s.carryIn
    have hrot := rrx_eq_rotateRight s.shValue s.carryIn
    rw [hrec] at hrot
    rw [← h] at hrec
    exact ⟨_, exec_of_shift_eq hrec rfl, rfl, rfl, rfl, rfl, rfl, hrot⟩
  · exact (immValue_eq base 0#5).trans (rotateRight_zero _)

end Sys2Proof.Machine
end

section
/-! PROOFS. The eight laws of R91. -/

namespace Sys2Proof.Machine

/-- The carry-out of a rotation is its top bit (R84). -/
theorem carryOut_rotateRight {a : Word} (v : Word) (c : Bool) (h : 1 ≤ a.toNat) :
    (shift .rotateRight a v c).carryOut = (shift .rotateRight a v c).result.getLsbD 31 := by
  rcases eq_or_ne (a.toNat % 32) 0 with hm | hm
  · rw [shift_rotateRight_multiple v c (by omega) hm]; rfl
  · rw [shift_rotateRight_remainder v c hm]
    exact (getLsbD_rotateRight_top v hm (Nat.mod_lt _ (by decide))).symm

/-- A rotation by 1 to 31 joins what LSR keeps and what LSL of the complement keeps (R91). -/
theorem rotateRight_eq_or (v : Word) {n : Nat} (h : 1 ≤ n) (h' : n ≤ 31) :
    v.rotateRight n = v >>> n ||| v <<< (32 - n) := by
  rw [BitVec.rotateRight_def, Nat.mod_eq_of_lt (by omega)]

/-- From 1 to 31 the three right operations share the carry, and ASR and ROR are told by LSR and LSL. -/
theorem shift_right_laws {a : Word} (v : Word) (c : Bool) (h : 1 ≤ a.toNat) (h' : a.toNat ≤ 31) :
    (shift .logicalRight a v c).carryOut = v.getLsbD (a.toNat - 1) ∧
    (shift .arithmeticRight a v c).carryOut = v.getLsbD (a.toNat - 1) ∧
    (shift .rotateRight a v c).carryOut = v.getLsbD (a.toNat - 1) ∧
    (v.getLsbD 31 = false → (shift .logicalRight a v c).result = (shift .arithmeticRight a v c).result) ∧
    (shift .rotateRight a v c).result =
      (shift .logicalRight a v c).result ||| (shift .logicalLeft (32#32 - a) v c).result := by
  have hmod : a.toNat % 32 = a.toNat := Nat.mod_eq_of_lt (by omega)
  have hsub : (32#32 - a).toNat = 32 - a.toNat :=
    BitVec.toNat_sub_of_le (BitVec.le_def.mpr (Nat.le_succ_of_le h'))
  rw [shift_logicalRight_mid v c h (by omega), shift_arithmeticRight_mid v c h h',
    shift_rotateRight_remainder v c (by omega), shift_logicalLeft_mid v c (by omega) (by omega), hmod, hsub]
  refine ⟨rfl, rfl, rfl, fun hpos => ?_, rotateRight_eq_or v h h'⟩
  rw [rawShift_result, rawShift_result, BitVec.sshiftRight_eq_of_msb_false]
  rw [BitVec.msb_eq_getLsbD_last]; exact hpos

/-- RRX is LSR by 1 with the carry-in on top. -/
theorem rrx_result_eq_or (v : Word) (c : Bool) :
    (shift .rotateRight 0#32 v c).result = v >>> 1 ||| (if c then 0x80000000#32 else 0#32) := by
  have hcarry : lsl32 ((BitVec.ofBool c).setWidth 32) 31 = if c then 0x80000000#32 else 0#32 := by
    revert c; decide
  rw [shift_rotateRight, shiftRotate_zero, shiftRRX, rawShift_result, hcarry, lsr32_eq, BitVec.or_comm]

/-- At 1 LSR moves the value by one place and hands out its bit 0. -/
theorem shift_logicalRight_one (v : Word) (c : Bool) :
    shift .logicalRight 1#32 v c = rawShift (v >>> 1) (v.getLsbD 0) :=
  shift_logicalRight_mid (a := 1#32) v c (by decide) (by decide)

/-- Settles O26, law by law. -/
theorem shiftEngineLaws : Obligations.ShiftEngineLaws := by
  refine ⟨fun v c => by rw [shift_logicalLeft_zero]; rfl, fun k hk => ?_, fun v c => ⟨?_, ?_⟩,
    fun a v c h => ⟨?_, ?_, ?_, ?_⟩,
    fun a b v c ha hb => shift_rotateRight_congr v c (by omega) (by omega) (by omega),
    fun _ => carryOut_rotateRight, fun _ => shift_right_laws, fun v c => ⟨?_, ?_, ?_⟩, fun k a v c => ?_⟩
  · by_contra! hid
    exact hk ((shift_identity_iff k 0#32).mp fun v c => Prod.ext_iff.mp (hid v c)).1
  · rw [shift_logicalRight_whole v c (.inl rfl), shift_logicalRight_whole v c (.inr rfl)]
  · exact shift_arithmeticRight_congr v c (.inl rfl) (.inr (by decide))
  · rw [shift_logicalLeft_above v c h, shift_logicalRight_above v c h]
  · rw [shift_logicalLeft_above v c h, rawShift_result]
  · rw [shift_logicalLeft_above v c h, rawShift_carryOut]
  · exact shift_arithmeticRight_congr v c (.inr (by omega)) (.inr (by decide))
  · rw [rrx_result_eq_or, shift_logicalRight_one, rawShift_result]
  · rw [shift_rotateRight_zero, rawShift_carryOut]
  · rw [shift_logicalRight_one, rawShift_carryOut]
  · obtain ⟨r, c', hr⟩ := shift_eq_rawShift k a v c
    rw [hr]
    exact ⟨rfl, rfl, rfl⟩

end Sys2Proof.Machine
end

section
/-! PROOFS. A shift kind outside the four (R88, R171). -/

namespace Sys2Proof.Machine

theorem shiftNat_outside {n : Nat} (a v : Word) (c : Bool) (h : 3 < n) :
    shiftNat n a v c = .error .shiftKindOutOfRange :=
  if_neg (by omega)

theorem shiftNat_code (k : ShiftKind) (a v : Word) (c : Bool) : shiftNat k.code.toNat a v c = .ok (shift k a v c) := by
  rw [shiftNat, if_pos (by omega), BitVec.ofNat_toNat, BitVec.setWidth_eq, kindOf_code]

theorem step_shiftInt_outside {s : State} {n : Nat} (hc : s.call = .shiftInt n) (h : 3 < n) :
    step s = .fault .shiftKindOutOfRange :=
  (step_shiftInt hc).trans (runShiftInt_outside s h)

/-- Bits of a kind row above 3 are handed over as the number they are. -/
theorem tableCall_kind_outside {nbits w : Nat} (h8 : nbits ≤ 8) (hw : 3 < w) : tableCall nbits w = .shiftInt w := by
  rw [tableCall_kind h8, if_neg (by omega)]

theorem decodeTableWord_kind_outside {nbits w : Nat} (h8 : nbits ≤ 8) (hw : 3 < w) :
    decodeTableWord nbits w = none := by
  rw [decodeTableWord, tableCall_kind_outside h8 hw]
  exact ite_self none

theorem withFetchWord_kind_outside (s : State) {nbits w : Nat} (h8 : nbits ≤ 8) (hw : 3 < w) :
    s.withFetchWord nbits w = s.presentCall (.shiftInt w) := by
  rw [State.withFetchWord, tableCall_kind_outside h8 hw]

/-- Settles O40: the number above 3 is refused wherever it is handed over. -/
theorem shiftKindAboveThreeGetsNoResult : Obligations.ShiftKindAboveThreeGetsNoResult := by
  refine ⟨fun _ => shiftNat_outside, shiftNat_code, fun _ _ => step_shiftInt_outside,
    fun s nbits w h8 hw => ⟨decodeTableWord_kind_outside h8 hw, ?_⟩,
    fun s => ⟨kindOf s.shKind, (code_kindOf _).symm⟩⟩
  rw [withFetchWord_kind_outside s h8 hw]
  exact step_shiftInt_outside rfl hw

end Sys2Proof.Machine
end

section
/-! PROOFS. The Opcode Classifier: the table of R101, the families of R102, the sixteen ALU rows, and an opcode
above 0xF (R103). -/

namespace Sys2Proof

/-! ## The sixteen opcodes (R101) -/

/-- The rows of R101's table, in the order of their opcodes. -/
theorem classify_in_opcode_order : (List.range 16).map (fun k => classify (BitVec.ofNat 4 k)) =
    [.and, .eor, .sub, .rsb, .add, .adc, .sbc, .rsc, .tst, .teq, .cmp, .cmn, .orr, .mov, .bic, .mvn] := by
  decide

/-- Settles O12: the table in order, and `classify` and `Mnemonic.opcode` inverse to each other. -/
theorem classifyIsTheListedBijection : Obligations.ClassifyIsTheListedBijection :=
  ⟨classify_in_opcode_order, opcode_classify, classify_opcode, ⟨classify_opcode .teq, rfl⟩,
    ⟨classify_opcode .sub, rfl⟩⟩

/-! ## The two families (R102) -/

theorem familyOf_eq_logical_iff (m : Mnemonic) :
    familyOf m = .logical ↔ m ∈ [.and, .eor, .tst, .teq, .orr, .mov, .bic, .mvn] := by
  cases m <;> decide

theorem familyOf_eq_arithmetic_iff (m : Mnemonic) :
    familyOf m = .arithmetic ↔ m ∈ [.sub, .rsb, .add, .adc, .sbc, .rsc, .cmp, .cmn] := by
  cases m <;> decide

end Sys2Proof

namespace Sys2Proof.Machine

/-- The family port is 1 for Arithmetic alone (D5). -/
theorem familyCode_eq_one_iff (f : Family) : familyCode f = 1#1 ↔ f = .arithmetic := by
  cases f <;> decide

/-- The Arithmetic opcodes are those on which the family port is 1. -/
theorem familyOf_classify_eq_arithmetic_iff (o : BitVec 4) :
    familyOf (classify o) = .arithmetic ↔ (2 ≤ o.toNat ∧ o.toNat ≤ 7) ∨ o = 0xA#4 ∨ o = 0xB#4 :=
  (familyCode_eq_one_iff _).symm.trans (familyCode_classify o)

/-- Settles O13: the families by name, by opcode and by port code. -/
theorem familyIsTheListedSplit : Obligations.FamilyIsTheListedSplit :=
  ⟨familyOf_eq_logical_iff, familyOf_eq_arithmetic_iff, familyOf_classify_eq_arithmetic_iff, ⟨rfl, rfl⟩⟩

/-! ## The sixteen ALU rows (R104 to R119) -/

/-- Settles O15: each row is `aluInstr` of its mnemonic, whose answer carries the mnemonic's own family. -/
theorem aluWordsCompleteWithTheirClassification : Obligations.AluWordsCompleteWithTheirClassification :=
  fun s d =>
    ⟨exec_aluInstr .and d s, exec_aluInstr .eor d s, exec_aluInstr .sub d s, exec_aluInstr .rsb d s,
      exec_aluInstr .add d s, exec_aluInstr .adc d s, exec_aluInstr .sbc d s, exec_aluInstr .rsc d s,
      exec_aluInstr .tst d s, exec_aluInstr .teq d s, exec_aluInstr .cmp d s, exec_aluInstr .cmn d s,
      exec_aluInstr .orr d s, exec_aluInstr .mov d s, exec_aluInstr .bic d s, exec_aluInstr .mvn d s⟩

/-! ## An opcode handed over as a number (R103, R171) -/

theorem classifyNat_outside {n : Nat} (h : 0xF < n) : classifyNat n = .error .opcodeOutOfRange :=
  if_neg (by omega)

theorem classifyNat_inside {n : Nat} (h : n ≤ 0xF) : classifyNat n = .ok (classify (BitVec.ofNat 4 n)) :=
  if_pos h

/-- Up to 0xF the 4-bit port loses nothing of the number. -/
theorem toNat_opcode_classify_ofNat {n : Nat} (h : n ≤ 0xF) : (classify (BitVec.ofNat 4 n)).opcode.toNat = n := by
  rw [opcode_classify, BitVec.toNat_ofNat, Nat.mod_eq_of_lt (by omega)]

theorem step_classifyInt_outside {s : State} {n : Nat} (hc : s.call = .classifyInt n) (h : 0xF < n) :
    step s = .fault .opcodeOutOfRange :=
  (step_classifyInt hc).trans (runClassifyInt_outside s h)

/-- Settles O39: a number above 0xF is refused, one up to 0xF is the opcode of its mnemonic. -/
theorem opcodeAboveFifteenGetsNoMnemonic : Obligations.OpcodeAboveFifteenGetsNoMnemonic :=
  ⟨fun _ => classifyNat_outside, fun _ h => ⟨_, classifyNat_inside h, toNat_opcode_classify_ofNat h⟩,
    fun _ _ => step_classifyInt_outside, fun s => Nat.le_of_lt_succ s.opcode.isLt⟩

end Sys2Proof.Machine
end

section
/-! PROOFS. The second operand: the fields of its descriptor (R130 to R135), and what an immediate and a register
shifted by a register resolve to (R132, R138). -/

namespace Sys2Proof

/-! ## The bits the decoder reads (R130, R135) -/

/-- Flipping bits outside a mask changes nothing under the mask. -/
theorem xor_and_of_outside {m k : Word} (w : Word) (h : m &&& k = 0#32) : (w ^^^ m) &&& k = w &&& k := by
  calc (w ^^^ m) &&& k = w &&& k ^^^ m &&& k := by ext i; simp [Bool.and_xor_distrib_right]
    _ = w &&& k := by rw [h, BitVec.xor_zero]

/-- The fields of the second operand (R130, R131, R134, R135) are all the bits of its mask. -/
theorem operandMask_eq_fields :
    operandMask = fieldsMask [(25, 1), (4, 1), (0, 8), (8, 4), (7, 5), (5, 2), (0, 4)] := by decide

/-- Words that agree under the mask of the second operand have one descriptor (R130). -/
theorem decodeOp2_congr {w w' : Word} (h : w &&& operandMask = w' &&& operandMask) : decodeOp2 w = decodeOp2 w' := by
  rw [operandMask_eq_fields, and_fieldsMask_eq_iff] at h
  simp only [List.forall_mem_cons, extractLsb'_bit, BitVec.ofBool_eq_iff_eq] at h
  obtain ⟨h25, h4, hbase, hcount, hn, hkind, hrm, -⟩ := h
  simp only [decodeOp2, decodeOp2Imm, decodeOp2RegReg, decodeOp2RegImm, h25, h4, hbase, hcount, hn, hkind, hrm]

/-- The fields of the shift-by-register form: bit 7 belongs to none of them (R135). -/
theorem shiftByRegMask_eq_fields : 0x02000F7F#32 = fieldsMask [(25, 1), (4, 1), (8, 4), (5, 2), (0, 4)] := by decide

/-- In the shift-by-register form bit 7 does not reach the descriptor (R135). -/
theorem decodeOp2_shiftByReg_congr {w w' : Word} (h25 : w.getLsbD 25 = false) (h4 : w.getLsbD 4 = true)
    (h : w &&& 0x02000F7F#32 = w' &&& 0x02000F7F#32) : decodeOp2 w = decodeOp2 w' := by
  rw [shiftByRegMask_eq_fields, and_fieldsMask_eq_iff] at h
  simp only [List.forall_mem_cons, extractLsb'_bit, BitVec.ofBool_eq_iff_eq] at h
  obtain ⟨h25', h4', hrs, hkind, hrm, -⟩ := h
  rw [decodeOp2_shiftByReg h25 h4, decodeOp2_shiftByReg (h25' ▸ h25) (h4' ▸ h4), hrs, hkind, hrm]

/-- Settles O4: the two words agree on every field the decoder reads. -/
theorem onlyOperandBitsReachTheDescriptor : Obligations.OnlyOperandBitsReachTheDescriptor :=
  ⟨fun w _ hm => decodeOp2_congr (xor_and_of_outside w hm),
    fun w h25 h4 => (decodeOp2_shiftByReg_congr h25 h4 (xor_and_of_outside w (by decide)).symm).symm⟩

/-! ## The fields as numbers (R131, R133) -/

theorem extractLsb'_eq_ofNat_div (w : Word) (lo n : Nat) : w.extractLsb' lo n = BitVec.ofNat n (w.toNat / 2 ^ lo) := by
  rw [BitVec.extractLsb', Nat.shiftRight_eq_div_pow]

/-- A number codes the kind whose code it is modulo 4 (R58, D3). -/
theorem kindOf_ofNat {n : Nat} {k : ShiftKind} (h : n % 4 = k.code.toNat) : kindOf (BitVec.ofNat 2 n) = k := by
  rw [show BitVec.ofNat 2 n = k.code from BitVec.eq_of_toNat_eq ((BitVec.toNat_ofNat n 2).trans h), kindOf_code]

/-- The register form, its operator chosen by bit 4 (R133). -/
theorem decodeOp2_register {w : Word} (h25 : w.getLsbD 25 = false) :
    decodeOp2 w = .register
      (if w.getLsbD 4 then .register (w.extractLsb' 8 4) else .immediate (w.extractLsb' 7 5))
      (kindOf (w.extractLsb' 5 2)) (w.extractLsb' 0 4) := by
  cases h4 : w.getLsbD 4 with
  | true => exact decodeOp2_shiftByReg h25 h4
  | false => exact decodeOp2_shiftByImm h25 h4

/-- Settles O6: each field is the quotient by its place, cut to its width. -/
theorem registerFormFieldsAreReadRight : Obligations.RegisterFormFieldsAreReadRight := by
  intro w h25
  refine ⟨kindOf (BitVec.ofNat 2 (w.toNat / 2 ^ 5)), ?_, fun h => kindOf_ofNat h, fun h => kindOf_ofNat h,
    fun h => kindOf_ofNat h, fun h => kindOf_ofNat h⟩
  simp only [decodeOp2_register h25, extractLsb'_eq_ofNat_div, Nat.pow_zero, Nat.div_one]

/-- Doubling a count loses nothing of the number (R55). -/
theorem toNat_doubled : ∀ r : BitVec 4, (doubled r).toNat = 2 * r.toNat := by decide

theorem doubled_eq_ofNat (r : BitVec 4) : doubled r = BitVec.ofNat 5 (2 * r.toNat) := by
  rw [← toNat_doubled, BitVec.ofNat_toNat, BitVec.setWidth_eq]

theorem toNat_rotateCount (w : Word) : (w.extractLsb' 8 4).toNat = w.toNat / 2 ^ 8 % 16 := by
  rw [extractLsb'_eq_ofNat_div, BitVec.toNat_ofNat]

/-- An immediate descriptor comes from the immediate form alone, so its `shift` is the doubled count (R131). -/
theorem rotation_of_decodeOp2 {w : Word} {base : BitVec 8} {rotation : BitVec 5}
    (h : decodeOp2 w = .immediate base rotation) : rotation = doubled (w.extractLsb' 8 4) := by
  cases h25 : w.getLsbD 25 with
  | true => rw [decodeOp2_immediate h25] at h; cases h; rfl
  | false => rw [decodeOp2_register h25] at h; cases h

/-- Settles O7: `shift` is twice the count, and a count is at most 15. -/
theorem immediateFormFieldsAreReadRight : Obligations.ImmediateFormFieldsAreReadRight := by
  refine ⟨fun w h25 => ?_, fun w base rotation h => ?_, by decide⟩
  · rw [decodeOp2_immediate h25, doubled_eq_ofNat, toNat_rotateCount, extractLsb'_eq_ofNat_div, Nat.mul_comm,
      Nat.pow_zero, Nat.div_one]
  · have hnum : rotation.toNat = 2 * (w.toNat / 2 ^ 8 % 16) := by
      rw [rotation_of_decodeOp2 h, toNat_doubled, toNat_rotateCount]
    refine ⟨by omega, by omega, fun hc => ?_, fun hc => ?_⟩ <;>
      exact BitVec.eq_of_toNat_eq (hnum.trans (by rw [hc]; rfl))

end Sys2Proof

namespace Sys2Proof.Machine

/-! ## An immediate operand (R132) -/

/-- Settles O16: the pair is kept, the value is the rotation `immValue_eq`, and a rotation by 0 is none. -/
theorem immediateOperandIsItsRotatedBase : Obligations.ImmediateOperandIsItsRotatedBase := by
  intro s r base
  have hvalue : immOperand base (doubled r) = ⟨(base.setWidth 32).rotateRight (2 * r.toNat), none⟩ := by
    rw [immOperand, immValue_eq, toNat_doubled]
  refine ⟨?_, ?_⟩
  · rw [← hvalue, ← doubled_eq_ofNat]; rfl
  · rintro rfl; exact rotateRight_zero _

/-! ## A register shifted by a register (R138) -/

/-- Settles O18: the four rows are those of `exec_shiftRegInstr`. -/
theorem registerShiftRowsComplete : Obligations.RegisterShiftRowsComplete := fun s rs rm =>
  ⟨exec_shiftRegInstr .logicalLeft rs rm s, exec_shiftRegInstr .logicalRight rs rm s,
    exec_shiftRegInstr .arithmeticRight rs rm s, exec_shiftRegInstr .rotateRight rs rm s⟩

/-- With the bypass an amount of 0 passes value and carry through (D8). -/
theorem shiftedByReg_bypass {p : ResolveParams} {r : Word} (k : ShiftKind) (v : Word) (c : Bool)
    (hp : p.regZeroBypass = true) (ha : p.amountOfReg r = 0#32) : shiftedByReg p k r v c = ⟨v, some c⟩ :=
  if_pos ⟨hp, ha⟩

/-- Without the bypass, and for every other amount, the engine resolves the operand. -/
theorem shiftedByReg_engine {p : ResolveParams} {r : Word} (k : ShiftKind) (v : Word) (c : Bool)
    (h : p.regZeroBypass = false ∨ p.amountOfReg r ≠ 0#32) :
    shiftedByReg p k r v c = operandOf (shift k (p.amountOfReg r) v c) :=
  if_neg fun ⟨hp, ha⟩ => h.elim (fun hf => Bool.false_ne_true (hf.symm.trans hp)) (· ha)

/-- What the engine's record makes of a register operand, where the engine resolves it. -/
theorem shiftedByReg_of_shift {p : ResolveParams} {k : ShiftKind} {r v x : Word} {c co : Bool}
    (h : p.regZeroBypass = false ∨ p.amountOfReg r ≠ 0#32) (hs : shift k (p.amountOfReg r) v c = rawShift x co) :
    shiftedByReg p k r v c = ⟨x, some co⟩ := by
  rw [shiftedByReg_engine k v c h, hs, operandOf_rawShift]

/-- LSL by 0 passes value and carry through, with the bypass and without (R81, R138). -/
theorem shiftedByReg_logicalLeft_zero {p : ResolveParams} {r : Word} (v : Word) (c : Bool)
    (ha : p.amountOfReg r = 0#32) : shiftedByReg p .logicalLeft r v c = ⟨v, some c⟩ := by
  cases hp : p.regZeroBypass with
  | true => exact shiftedByReg_bypass _ v c hp ha
  | false => exact shiftedByReg_of_shift (.inl hp) (by rw [ha, shift_logicalLeft_zero])

/-- From 1 to 32 an arithmetic shift hands out the last bit that leaves; at 32 that is the sign (R83). -/
theorem shift_arithmeticRight_to_32 {a : Word} (v : Word) (c : Bool) (h : 1 ≤ a.toNat) (h' : a.toNat ≤ 32) :
    shift .arithmeticRight a v c = rawShift (v.sshiftRight a.toNat) (v.getLsbD (a.toNat - 1)) := by
  rcases Nat.lt_or_ge a.toNat 32 with hlt | hge
  · exact shift_arithmeticRight_mid v c h (Nat.le_of_lt_succ hlt)
  · rw [Nat.le_antisymm h' hge, ← replicate32_signBit]
    exact shift_arithmeticRight_outside v c (.inr hge)

/-- Outside 1 to 31 an arithmetic shift is one by the whole width (R83). -/
theorem shift_arithmeticRight_whole {a : Word} (v : Word) (c : Bool) (h : a.toNat = 0 ∨ 32 ≤ a.toNat) :
    shift .arithmeticRight a v c = rawShift (v.sshiftRight 32) (v.getLsbD 31) := by
  rw [← replicate32_signBit]; exact shift_arithmeticRight_outside v c h

/-- Above 0 a rotation is Lean's own by the whole amount, and its carry is its top bit (R84). -/
theorem shift_rotateRight_pos {a : Word} (v : Word) (c : Bool) (h : 1 ≤ a.toNat) :
    shift .rotateRight a v c = rawShift (v.rotateRight a.toNat) ((v.rotateRight a.toNat).getLsbD 31) := by
  rw [← rotateRight_mod]
  rcases eq_or_ne (a.toNat % 32) 0 with hm | hm
  · rw [shift_rotateRight_multiple v c (by omega) hm, hm, rotateRight_zero]
  · rw [shift_rotateRight_remainder v c hm, getLsbD_rotateRight_top v hm (Nat.mod_lt _ (by decide))]

/-- From 1 to 32 the top bit of a rotation is the last bit that left. -/
theorem getLsbD_rotateRight_top_to_32 (v : Word) {n : Nat} (h : 1 ≤ n) (h' : n ≤ 32) :
    (v.rotateRight n).getLsbD 31 = v.getLsbD (n - 1) := by
  rcases Nat.lt_or_ge n 32 with hlt | hge
  · exact getLsbD_rotateRight_top v (by omega) hlt
  · rw [Nat.le_antisymm h' hge, ← rotateRight_mod, rotateRight_zero]

/-- Settles O19, regime by regime. -/
theorem registerShiftsResolveByRegime : Obligations.RegisterShiftsResolveByRegime := by
  rintro p r v a c rfl
  refine ⟨fun h hp k => shiftedByReg_bypass k v c hp h, fun h hp => ?_, fun h h' => ?_, fun h => ?_⟩
  · have engine : p.regZeroBypass = false ∨ p.amountOfReg r ≠ 0#32 := .inl hp
    refine ⟨shiftedByReg_logicalLeft_zero v c h, shiftedByReg_of_shift engine ?_, shiftedByReg_of_shift engine ?_,
      shiftedByReg_of_shift engine ?_⟩ <;> rw [h]
    · exact shift_logicalRight_whole v c (.inl rfl)
    · exact shift_arithmeticRight_whole v c (.inl rfl)
    · exact shift_rotateRight_zero v c
  · have engine : p.regZeroBypass = false ∨ p.amountOfReg r ≠ 0#32 := .inr (ne_zero_of_pos h)
    refine ⟨shiftedByReg_of_shift engine (shift_logicalLeft_mid v c h h'),
      shiftedByReg_of_shift engine (shift_logicalRight_mid v c h h'),
      shiftedByReg_of_shift engine (shift_arithmeticRight_to_32 v c h h'), shiftedByReg_of_shift engine ?_⟩
    rw [shift_rotateRight_pos v c h, getLsbD_rotateRight_top_to_32 v h h']
  · have engine : p.regZeroBypass = false ∨ p.amountOfReg r ≠ 0#32 := .inr (ne_zero_of_pos (by omega))
    exact ⟨shiftedByReg_of_shift engine (shift_logicalLeft_above v c h),
      shiftedByReg_of_shift engine (shift_logicalRight_above v c h),
      shiftedByReg_of_shift engine (shift_arithmeticRight_whole v c (.inr (by omega))),
      shiftedByReg_of_shift engine (shift_rotateRight_pos v c (by omega))⟩

/-! ## The two readings of the open parameters (R10, R138) -/

/-- The low byte of a register that holds at most 255 is the register. -/
theorem armLike_amountOfReg {r : Word} (h : r.toNat ≤ 255) : ResolveParams.armLike.amountOfReg r = r := by
  refine BitVec.eq_of_toNat_eq ?_
  simp only [ResolveParams.armLike, BitVec.toNat_setWidth, BitVec.extractLsb'_toNat, Nat.shiftRight_zero]
  omega

/-- From 1 to 255 both readings hand the register to the engine as it is. -/
theorem shiftedByReg_literal_eq_armLike {r : Word} (k : ShiftKind) (v : Word) (c : Bool) (h : 1 ≤ r.toNat)
    (h' : r.toNat ≤ 255) : shiftedByReg .literal k r v c = shiftedByReg .armLike k r v c := by
  have harm := armLike_amountOfReg h'
  have hne : ResolveParams.armLike.amountOfReg r ≠ 0#32 := by rw [harm]; exact ne_zero_of_pos h
  rw [shiftedByReg_engine k v c (.inl rfl), shiftedByReg_engine k v c (.inr hne), harm]
  rfl

/-- Where every register is 0 and the carry is set, only LSL keeps the carry: the engine shifts out a 0. -/
theorem shiftedByReg_zero_ne {k : ShiftKind} (hk : k ≠ .logicalLeft) :
    shiftedByReg .literal k 0#32 0#32 true ≠ shiftedByReg .armLike k 0#32 0#32 true := by
  cases k with
  | logicalLeft => exact absurd rfl hk
  | logicalRight => decide
  | arithmeticRight => decide
  | rotateRight => decide

/-- Settles O28; the readings differ where every register is 0 and the carry is set. -/
theorem literalAndArmReadingsAgreeFrom1To255 : Obligations.LiteralAndArmReadingsAgreeFrom1To255 := by
  refine ⟨fun x c k rs rm h h' => shiftedByReg_literal_eq_armLike k _ c h h',
    fun x c rs rm h => ⟨shiftedByReg_logicalLeft_zero _ c h, shiftedByReg_logicalLeft_zero _ c ?_⟩,
    fun k rs rm hk => ⟨Vector.replicate 16 0#32, true, Vector.getElem_replicate _, ?_⟩,
    fun _ _ _ _ _ _ _ => rfl, fun _ _ _ _ _ _ => rfl⟩
  · rw [h]; rfl
  · simpa only [resolveOp2, Vector.getElem_replicate] using shiftedByReg_zero_ne hk

end Sys2Proof.Machine
end

section
/-! PROOFS. The PSR-Transfer Decoder: the three rows complete (R151 to R153), the patterns exclude each other and
how many words each accepts (R154, R155), where they sit among the opcodes (R159), and the bits the decoder does
not read (R52, R158). -/

open Sys2Proof.Machine

namespace Sys2Proof

/-- Settles O14: the three rows are `psrInstr` of their shapes. -/
theorem psrTransfersCompleteWithTheirShape : Obligations.PsrTransfersCompleteWithTheirShape := fun s r d =>
  ⟨exec_psrInstr (.mrs r) s, exec_psrInstr (.msr r) s, exec_psrInstr (.msrFlg d) s⟩

/-! ## The bits a pattern fixes (R60) -/

/-- An accepted word holds the match value in every bit of the mask. -/
theorem Pattern.getLsbD_of_accepts {p : Pattern} {w : Word} (h : p.accepts w = true) {i : Nat}
    (hmask : p.mask.getLsbD i = true) : w.getLsbD i = p.value.getLsbD i := by
  rw [Pattern.accepts_iff] at h
  rw [← h, BitVec.getLsbD_and, hmask, Bool.and_true]

/-- The bits a pattern leaves free. -/
abbrev Pattern.FreeBit (p : Pattern) : Type := {i : Fin 32 // p.mask.getLsbD i = false}

/-- The free bits of an accepted word. -/
def Pattern.freeBits (p : Pattern) (w : {w : Word // p.accepts w = true}) (i : p.FreeBit) : Bool :=
  w.val.getLsbD i.val

/-- The word with the match value in the fixed bits and the given free bits. -/
def Pattern.fill (p : Pattern) (f : p.FreeBit → Bool) : Word :=
  BitVec.ofFnLE fun i => if h : p.mask.getLsbD i = false then f ⟨i, h⟩ else p.value.getLsbD i

theorem Pattern.getLsbD_fill_free (p : Pattern) (f : p.FreeBit → Bool) (i : p.FreeBit) :
    (p.fill f).getLsbD i.val = f i := by
  rw [fill, BitVec.getLsbD_ofFnLE, dif_pos i.val.isLt, dif_pos i.property]

theorem Pattern.getLsbD_fill_fixed (p : Pattern) (f : p.FreeBit → Bool) {i : Nat} (hi : i < 32)
    (hmask : p.mask.getLsbD i = true) : (p.fill f).getLsbD i = p.value.getLsbD i := by
  rw [fill, BitVec.getLsbD_ofFnLE, dif_pos hi, dif_neg (by simp [hmask])]

theorem Pattern.accepts_fill {p : Pattern} (hvalue : p.value &&& p.mask = p.value) (f : p.FreeBit → Bool) :
    p.accepts (p.fill f) = true := by
  rw [Pattern.accepts_iff]
  refine BitVec.eq_of_getLsbD_eq fun i hi => ?_
  rw [← hvalue, BitVec.getLsbD_and, BitVec.getLsbD_and]
  cases hmask : p.mask.getLsbD i with
  | true => rw [p.getLsbD_fill_fixed f hi hmask]
  | false => rw [Bool.and_false, Bool.and_false]

/-- An accepted word is its free bits. -/
theorem Pattern.freeBits_bijective {p : Pattern} (hvalue : p.value &&& p.mask = p.value) :
    Function.Bijective p.freeBits := by
  constructor
  · intro w w' h
    refine Subtype.ext (BitVec.eq_of_getLsbD_eq fun i hi => ?_)
    cases hmask : p.mask.getLsbD i with
    | true => rw [getLsbD_of_accepts w.property hmask, getLsbD_of_accepts w'.property hmask]
    | false => exact congrFun h ⟨⟨i, hi⟩, hmask⟩
  · exact fun f => ⟨⟨p.fill f, accepts_fill hvalue f⟩, funext (p.getLsbD_fill_free f)⟩

/-- With `n` free bits a pattern accepts `2 ^ n` words. -/
theorem Pattern.card_accepts {p : Pattern} {n : Nat} (hvalue : p.value &&& p.mask = p.value)
    (hfree : Fintype.card p.FreeBit = n) : Nat.card {w : Word // p.accepts w = true} = 2 ^ n := by
  rw [Nat.card_eq_of_bijective _ (freeBits_bijective hvalue), Nat.card_fun, Nat.card_eq_fintype_card,
    Nat.card_eq_fintype_card, Fintype.card_bool, hfree]

/-- Free in MRS are the four condition bits, bit 22 and the register field. -/
theorem card_mrsPattern : Nat.card {w : Word // mrsPattern.accepts w = true} = 512 :=
  Pattern.card_accepts (n := 9) (by decide) (by decide)

theorem card_msrPattern : Nat.card {w : Word // msrPattern.accepts w = true} = 512 :=
  Pattern.card_accepts (n := 9) (by decide) (by decide)

/-- Free in MSRFLG are the four condition bits, bits 25 and 22, and the second operand's twelve. -/
theorem card_msrFlgPattern : Nat.card {w : Word // msrFlgPattern.accepts w = true} = 262144 :=
  Pattern.card_accepts (n := 18) (by decide) (by decide)

/-! ## The shapes exclude each other (R155), so their order cannot be observed (R154) -/

theorem msr_not_accepts_of_mrs {w : Word} (h : mrsPattern.accepts w = true) : msrPattern.accepts w = false :=
  Pattern.not_accepts_of_conflict h (by decide)

theorem msrFlg_not_accepts_of_mrs {w : Word} (h : mrsPattern.accepts w = true) :
    msrFlgPattern.accepts w = false :=
  Pattern.not_accepts_of_conflict h (by decide)

theorem msrFlg_not_accepts_of_msr {w : Word} (h : msrPattern.accepts w = true) :
    msrFlgPattern.accepts w = false :=
  Pattern.not_accepts_of_conflict h (by decide)

/-- Settles O9: bits 21 and 16 lie in the masks, and each count is a power of two by the free bits. -/
theorem psrShapesExcludeEachOther : Obligations.PsrShapesExcludeEachOther := by
  refine ⟨fun w => ⟨fun h => ?_, fun h => ?_, fun h => ?_⟩, card_mrsPattern, card_msrPattern, card_msrFlgPattern⟩
  · exact ⟨msr_not_accepts_of_mrs h, msrFlg_not_accepts_of_mrs h, Pattern.getLsbD_of_accepts h (i := 21) rfl⟩
  · exact ⟨msrFlg_not_accepts_of_msr h, Pattern.getLsbD_of_accepts h (i := 21) rfl,
      Pattern.getLsbD_of_accepts h (i := 16) rfl⟩
  · exact ⟨Pattern.getLsbD_of_accepts h (i := 21) rfl, Pattern.getLsbD_of_accepts h (i := 16) rfl⟩

/-- Settles O10: at most one of the three answers is there, so they may be combined in any order. -/
theorem psrPriorityOrderIsUnobservable : Obligations.PsrPriorityOrderIsUnobservable := by
  rintro w a b c rfl rfl rfl
  obtain ⟨hp, h⟩ | ⟨hp, h⟩ | ⟨hp, h⟩ | ⟨⟨hmrs, hmsr, hflg⟩, h⟩ := tryDecodePsr_cases w
  · simp [h, hp, msr_not_accepts_of_mrs hp, msrFlg_not_accepts_of_mrs hp]
  · simp [h, hp, mrs_not_accepts_of_msr hp, msrFlg_not_accepts_of_msr hp]
  · simp [h, hp, mrs_not_accepts_of_msrFlg hp, msr_not_accepts_of_msrFlg hp]
  · simp [h, hmrs, hmsr, hflg]

/-! ## The opcodes of the PSR words (R159) -/

/-- With bit 24 set and bit 23 clear the classifier tells the four comparisons apart by bits 22 and 21 (R101). -/
theorem classify_opcodeOf_comparison {w : Word} (h24 : w.getLsbD 24 = true) (h23 : w.getLsbD 23 = false) :
    classify (opcodeOf w) =
      if w.getLsbD 22 then (if w.getLsbD 21 then .cmn else .cmp) else (if w.getLsbD 21 then .teq else .tst) := by
  have hbit : ∀ i < 4, (opcodeOf w).getLsbD i = w.getLsbD (21 + i) := fun i hi => by simp [opcodeOf, hi]
  simp only [classify, hbit 3 (by decide), hbit 2 (by decide), hbit 1 (by decide), hbit 0 (by decide), h24, h23]
  cases w.getLsbD 22 <;> cases w.getLsbD 21 <;> rfl

/-- Settles O11: the patterns fix bits 24, 23, 21 and 20 and leave bit 22 free. -/
theorem psrShapesSitOnTheComparisonOpcodes : Obligations.PsrShapesSitOnTheComparisonOpcodes := by
  refine ⟨fun w h => ?_, fun w h => ?_, by decide⟩
  · have h21 : w.getLsbD 21 = false := Pattern.getLsbD_of_accepts h rfl
    rw [classify_opcodeOf_comparison (Pattern.getLsbD_of_accepts h rfl) (Pattern.getLsbD_of_accepts h rfl), h21]
    exact ⟨Pattern.getLsbD_of_accepts h rfl, rfl⟩
  · obtain ⟨h24, h23, h21, h20⟩ :
        w.getLsbD 24 = true ∧ w.getLsbD 23 = false ∧ w.getLsbD 21 = true ∧ w.getLsbD 20 = false := by
      rcases h with h | h <;>
        exact ⟨Pattern.getLsbD_of_accepts h rfl, Pattern.getLsbD_of_accepts h rfl,
          Pattern.getLsbD_of_accepts h rfl, Pattern.getLsbD_of_accepts h rfl⟩
    rw [classify_opcodeOf_comparison h24 h23, h21]
    exact ⟨h20, rfl⟩

/-! ## The bits the decoder does not read (R52, R158) -/

/-- Words that agree under a mask agree under every part of it. -/
theorem and_eq_of_submask {w w' k m : Word} (hsub : k &&& m = m) (h : w &&& k = w' &&& k) : w &&& m = w' &&& m := by
  rw [← hsub, ← BitVec.and_assoc, ← BitVec.and_assoc, h]

/-- Words that agree under the mask of a pattern are both accepted or both not. -/
theorem Pattern.accepts_congr (p : Pattern) {w w' : Word} (h : w &&& p.mask = w' &&& p.mask) :
    p.accepts w = p.accepts w' := by
  rw [Pattern.accepts, Pattern.accepts, h]

/-- Words that agree under a field's mask hold the same field. -/
theorem extractLsb'_eq_of_submask {w w' k : Word} {lo n : Nat} (hsub : k &&& fieldMask lo n = fieldMask lo n)
    (h : w &&& k = w' &&& k) : w.extractLsb' lo n = w'.extractLsb' lo n :=
  (and_fieldMask_eq_iff w w' lo n).mp (and_eq_of_submask hsub h)

/-- The PSR-Transfer Decoder reads bits 27:23 and 21:0 (R158). -/
theorem tryDecodePsr_congr {w w' : Word} (h : w &&& 0x0FBFFFFF#32 = w' &&& 0x0FBFFFFF#32) :
    tryDecodePsr w = tryDecodePsr w' := by
  have hpattern : ∀ p : Pattern, 0x0FBFFFFF#32 &&& p.mask = p.mask → p.accepts w = p.accepts w' :=
    fun p hsub => p.accepts_congr (and_eq_of_submask hsub h)
  have hrd : w.extractLsb' 12 4 = w'.extractLsb' 12 4 := extractLsb'_eq_of_submask (by decide) h
  have hrm : w.extractLsb' 0 4 = w'.extractLsb' 0 4 := extractLsb'_eq_of_submask (by decide) h
  rw [tryDecodePsr, tryDecodePsr, hpattern mrsPattern (by decide), hpattern msrPattern (by decide),
    hpattern msrFlgPattern (by decide), hrd, hrm, decodeOp2_congr (and_eq_of_submask (by decide) h)]

/-- The whole flow reads bits 27:0 (R52, R53). -/
theorem decodeWord_congr {w w' : Word} (h : w &&& 0x0FFFFFFF#32 = w' &&& 0x0FFFFFFF#32) :
    decodeWord w = decodeWord w' := by
  have hopcode : opcodeOf w = opcodeOf w' := extractLsb'_eq_of_submask (by decide) h
  rw [decodeWord, decodeWord, tryDecodePsr_congr (and_eq_of_submask (by decide) h), hopcode,
    decodeOp2_congr (and_eq_of_submask (by decide) h)]

/-- Settles O5: both words agree on every bit the decoder reads. -/
theorem psrDecoderIgnoresFreeBits : Obligations.PsrDecoderIgnoresFreeBits :=
  ⟨fun w _ hm => tryDecodePsr_congr (xor_and_of_outside w hm),
    fun w _ hm => decodeWord_congr (xor_and_of_outside w hm)⟩

end Sys2Proof
end
